-- ==== Sys2Proof/Word.lean ====
section
/-! DEFINITION. The bit-vector types the spec itself uses: a byte lane, a bus word, an offset in the window. -/

namespace Sys2Proof

/-- One byte lane of a bus word (20_memory.md R63). -/
abbrev Byte := BitVec 8

/-- A bus word, the width `W = 32` of every control register and of every word of an operand register (00_scope.md R8). -/
abbrev Word := BitVec 32

/-- A byte offset in the engine's window of 4096 bytes, `0x000` to `0xFFF` (20_memory.md R60). -/
abbrev Offset := BitVec 12

end Sys2Proof
end

