-- ==== Sys2Proof/Config.lean ====
section
/-! DEFINITION. The parameters of 00_scope.md R9 that a model fixes, and the values the spec leaves open, each an
opaque constant about which nothing can be proved. -/

namespace Sys2Proof.Config

/-- The number of bits of a bus word (00_scope.md R8). -/
def wordBits : Nat := 32

/-- The least and the greatest number `K` of words of an operand register (00_scope.md R8). -/
def minK : Nat := 1

/-- See `minK`. -/
def maxK : Nat := 128

/-- `K` at the default `NBITS = 2048` (00_scope.md R7, R8). `K` itself is `State.k`: an argument of the model. -/
def defaultK : Nat := 64

/-- The content of the `ID` register, the ASCII bytes "MEXP" (10_state.md R29). -/
def idValue : Word := 0x4D455850#32

/-- The field `VER` of `PARAM` for the command set `MEXP-1` (10_state.md R30). -/
def version : Nat := 1

/-- The size in bytes of the engine's window (20_memory.md R60). -/
def windowBytes : Nat := 4096

/-- The number of bytes from one operand register's slot to the next (20_memory.md R61). -/
def bankStride : Nat := 0x200

/-- FREE VALUE (log 6). The word that an operand register's word at a byte offset of the window holds after a reset event; the
first argument numbers the reset, "not the same value after two different resets" (70_reset_and_hazards.md R231). -/
opaque resetWord : Nat → Nat → Word

/-- OPEN, the platform's (log 9): the number of the 4 KiB page of the host's address space in which the window lies. -/
opaque basePage : Nat

/-- The byte address `BASE` of the window, a multiple of 4096 (20_memory.md R60, R73). -/
def base : Nat := windowBytes * basePage

/-- OPEN, host software only (log 22): does this integer pass the host's probable-prime test, at the confidence
`PRIME_CERTAINTY` (48_host_rsa_flows.md R176)? -/
opaque probablePrime : Nat → Bool

end Sys2Proof.Config
end

