-- ==== Sys2Proof/Syntax.lean ====
section
/-! DEFINITION. The commands, the one format of a command word, the operand registers' names, the events of the total
order, and the statements of a host program. -/

namespace Sys2Proof

/-- The eight commands of `MEXP-1` (00_scope.md R2, 30_encoding.md R94). No command has an operand field: each names its
operand registers implicitly (R91, R93). -/
inductive Instr where
  /-- `NOP`, 41_move_control_commands.md R140. -/
  | nop
  /-- `MODEXP`, 40_arith_commands.md R120. -/
  | modexp
  /-- `MODMUL`, 40_arith_commands.md R122. -/
  | modmul
  /-- `MODSQR`, 40_arith_commands.md R124. -/
  | modsqr
  /-- `MODRED`, 40_arith_commands.md R126. -/
  | modred
  /-- `MOVRA`, 41_move_control_commands.md R142. -/
  | movra
  /-- `MOVRB`, 41_move_control_commands.md R144. -/
  | movrb
  /-- `CLR`, 41_move_control_commands.md R147. -/
  | clr
deriving DecidableEq, Repr

/-- Format C, the only format of a command word (30_encoding.md R91). -/
structure FormatC where
  /-- Bits 31:8, "must be all zero". -/
  zero : BitVec 24
  /-- Bits 7:0, selects the command. -/
  opcode : BitVec 8
deriving DecidableEq, Repr

/-- The five operand registers (10_state.md R20). -/
inductive Bank where
  /-- The modulus register (R21). -/
  | N
  /-- The first operand register (R22). -/
  | A
  /-- The second operand register (R23). -/
  | B
  /-- The exponent register (R24). -/
  | E
  /-- The result register (R25). -/
  | R
deriving DecidableEq, Repr

/-- One event of the total order of host accesses, completion steps and resets (00_scope.md R13, 20_memory.md R76). -/
inductive Event where
  /-- `MemRead(off, size)` (00_scope.md R12). -/
  | read (off : Offset) (size : Nat)
  /-- `MemWrite(off, size, v)` (00_scope.md R12); `v` is read only where `size = 4` (log 9). -/
  | write (off : Offset) (size : Nat) (v : Word)
  /-- The engine's turn: its completion step where that is enabled (10_state.md R48; log 3). -/
  | completion
  /-- A reset (70_reset_and_hazards.md R230). -/
  | reset
deriving DecidableEq, Repr

/-- The answer of the slave port to one access (20_memory.md R68, R70, R71). -/
inductive Response where
  /-- `OK` with the word read. -/
  | data (v : Word)
  /-- `OK` to a write, refused or not. -/
  | ok
  /-- `ERROR`: no data (log 8). -/
  | error
deriving DecidableEq, Repr

/-- The statements of a host program: primitives (30_encoding.md R98) and pseudo-statements (R99). -/
inductive Stmt where
  /-- `WR off, val`. -/
  | wr (off : Offset) (v : Word)
  /-- `RD off`. -/
  | rd (off : Offset)
  /-- `<MNEMONIC>`. -/
  | command (i : Instr)
  /-- `LOAD X, v`. -/
  | load (x : Bank) (v : Nat)
  /-- `READ X`. -/
  | readBank (x : Bank)
  /-- `WAIT`. -/
  | wait
  /-- `RUN <MNEMONIC>`. -/
  | run (i : Instr)
  /-- `ACK`. -/
  | ack
  /-- `ACKERR`. -/
  | ackerr
  /-- `IRQON`. -/
  | irqon
  /-- `IRQOFF`. -/
  | irqoff
deriving DecidableEq, Repr

end Sys2Proof
end

