-- ==== Sys2Proof/WellFormed.lean ====
section
/-! DEFINITION. What the spec asks of a command word's fields, of a command, of the parameter `K` and of a host statement. -/

namespace Sys2Proof

/-- Bits 31:8 "must be all zero" (30_encoding.md R91). -/
def FormatC.zeroClear (f : FormatC) : Bool := f.zero == 0#24

/-- The opcode is one of the eight of the map (30_encoding.md R94); `0x08` to `0xFF` are illegal (R95). -/
def FormatC.opcodeListed (f : FormatC) : Bool := decide (f.opcode.toNat < 8)

/-- The command word selects a command (30_encoding.md R94). -/
def FormatC.wellFormed (f : FormatC) : Bool := f.zeroClear && f.opcodeListed

/-- Every command is well formed: it has no field that could be ill formed (30_encoding.md R91, R93). -/
def Instr.wellFormed : Instr → Bool
  | .nop => true
  | .modexp => true
  | .modmul => true
  | .modsqr => true
  | .modred => true
  | .movra => true
  | .movrb => true
  | .clr => true

/-- `1 <= K <= 128` (00_scope.md R8). -/
def legalK (k : Nat) : Bool := decide (Config.minK ≤ k) && decide (k ≤ Config.maxK)

/-- A host may write the register: every operand register but `R` (10_state.md R21 to R25). -/
def Bank.hostWritable : Bank → Bool
  | .N => true
  | .A => true
  | .B => true
  | .E => true
  | .R => false

/-- `LOAD X, v` takes `X` in `N`, `A`, `B`, `E` and `0 <= v < 2^NBITS` (30_encoding.md R99); no other statement has a
side condition. -/
def Stmt.wellFormed (k : Nat) : Stmt → Bool
  | .wr _ _ => true
  | .rd _ => true
  | .command i => i.wellFormed
  | .load x v => x.hostWritable && decide (v < 2 ^ (Config.wordBits * k))
  | .readBank _ => true
  | .wait => true
  | .run i => i.wellFormed
  | .ack => true
  | .ackerr => true
  | .irqon => true
  | .irqoff => true

end Sys2Proof
end

