-- ==== Sys2Proof/Decode.lean ====
section
/-! DEFINITION. The decoder of a command word (30_encoding.md R94), total on every word and on any bytes, and after it the
encoder. -/

namespace Sys2Proof

/-- Why bytes or a word are no command. -/
inductive DecodeError where
  /-- Fewer than the four bytes of a command word (30_encoding.md R90). -/
  | truncated
  /-- A bit of 31:8 is set, whatever the opcode (R95). -/
  | upperBitsSet
  /-- Bits 31:8 are clear and the opcode is in `0x08` to `0xFF` (R95). -/
  | opcodeUnassigned
deriving DecidableEq, Repr

/-- The field `v[hi:lo]` of 00_scope.md R10, `len = hi - lo + 1` bits. -/
def bitField (v : Word) (lo len : Nat) : BitVec len := v.extractLsb' lo len

/-- Byte lane `j` of a word: bits `8*j+7 : 8*j` (20_memory.md R63). -/
def byteLane (w : Word) (j : Nat) : Byte := bitField w (8 * j) 8

/-- The four bytes of a word, the one at the lowest offset first (20_memory.md R63). -/
def bytesOfWord (w : Word) : List Byte := [byteLane w 0, byteLane w 1, byteLane w 2, byteLane w 3]

/-- The word whose byte lanes 0 to 3 are the four bytes (20_memory.md R63). -/
def wordOfBytes (b0 b1 b2 b3 : Byte) : Word := (b3 ++ b2 ++ b1 ++ b0 : BitVec 32)

/-- The two fields of a command word (30_encoding.md R91). -/
def formatOf (w : Word) : FormatC := { zero := bitField w 8 24, opcode := bitField w 0 8 }

/-- `execute(w)`'s choice of a command (30_encoding.md R94): the bits 31:8 are tested before the opcode. -/
def decode (w : Word) : Except DecodeError Instr :=
  if (formatOf w).zero = 0#24 then
    match (formatOf w).opcode.toNat with
    | 0x00 => .ok .nop
    | 0x01 => .ok .modexp
    | 0x02 => .ok .modmul
    | 0x03 => .ok .modsqr
    | 0x04 => .ok .modred
    | 0x05 => .ok .movra
    | 0x06 => .ok .movrb
    | 0x07 => .ok .clr
    | _ => .error .opcodeUnassigned
  else .error .upperBitsSet

/-- Decode the command word at the head of some bytes; every command has the one length of four bytes (30_encoding.md R90). -/
def decodeBytes : List Byte → Except DecodeError (Instr × List Byte)
  | b0 :: b1 :: b2 :: b3 :: rest =>
    match decode (wordOfBytes b0 b1 b2 b3) with
    | .ok i => .ok (i, rest)
    | .error e => .error e
  | _ => .error .truncated

/-- The command's word in the opcode map: its `match` value, under the mask `0xFFFFFFFF` (30_encoding.md R94). -/
def encode : Instr → Word
  | .nop => 0x00000000#32
  | .modexp => 0x00000001#32
  | .modmul => 0x00000002#32
  | .modsqr => 0x00000003#32
  | .modred => 0x00000004#32
  | .movra => 0x00000005#32
  | .movrb => 0x00000006#32
  | .clr => 0x00000007#32

/-- The host's question: what the decoder reads from the instruction whose bits, numbered as the opcode table numbers them,
are `w`. The bits above `nbits` are 0; a word has 32 bits, so anything wider is no command. -/
def decodeTableWord (nbits w : Nat) : Option Instr :=
  if w % 2 ^ nbits < 2 ^ 32 then
    match decodeBytes (bytesOfWord (BitVec.ofNat 32 (w % 2 ^ nbits))) with
    | .ok (i, _) => some i
    | .error _ => none
  else none

end Sys2Proof
end

