-- ==== Sys2Proof/Machine/State.lean ====
section
/-! DEFINITION. The state of the engine as 10_state.md gives it, with the events still to come and the answers given, and
the state after reset. -/

namespace Sys2Proof.Machine

/-- The cause codes of `STATUS.ECODE`, "exactly three values" (60_exceptions.md R200, 93_implementation_defined.md U9). -/
inductive ErrorCode where
  /-- 0: the last completed command ended normally, or none has completed since reset or acceptance. -/
  | none
  /-- 1, `ILLEGAL_CMD`. -/
  | illegalCmd
  /-- 2, `MOD_ZERO`. -/
  | modZero
deriving DecidableEq, Repr

/-- The fields of `STATUS` (10_state.md R32); the reserved bits read as 0 and are not stored. -/
structure Status where
  /-- Bit 0: a command has been accepted and its completion step has not happened (R33). -/
  busy : Bool
  /-- Bit 1: a command has completed since `DONE` was last cleared (R34); the interrupt's pending bit. -/
  done : Bool
  /-- Bit 2: the last completed command ended in error (R35). -/
  err : Bool
  /-- Bit 3: an operand of the last completed arithmetic command was not below the modulus (R36). -/
  ge : Bool
  /-- Bit 4: the last completed arithmetic command wrote 0 (R37). -/
  z : Bool
  /-- Bit 5: a refused write has happened since `ACCERR` was last cleared (R38). -/
  accerr : Bool
  /-- Bits 11:8: the cause code of the last completed command (R39). -/
  ecode : ErrorCode
deriving DecidableEq, Repr

/-- `STATUS` with every field 0, its value after reset (10_state.md R51). -/
def Status.clear : Status :=
  { busy := false, done := false, err := false, ge := false, z := false, accerr := false, ecode := .none }

/-- The machine: the engine's registers and the model's own three fields (log 1, 6, 7). An operand register is the list
of its words, word 0 first (00_scope.md R11). -/
structure State where
  /-- `K`, the number of words of an operand register, the constant field `PARAM.K` (10_state.md R30; log 4). -/
  k : Nat
  /-- The modulus register (R21). -/
  N : List Word
  /-- The first operand register (R22). -/
  A : List Word
  /-- The second operand register (R23). -/
  B : List Word
  /-- The exponent register (R24). -/
  E : List Word
  /-- The result register (R25). -/
  R : List Word
  /-- `CMDREG`, the last accepted command word (R47). -/
  cmdreg : Word
  /-- `STATUS` (R32). -/
  status : Status
  /-- `CTRL.IE` (R41). -/
  ie : Bool
  /-- The model's own: how many reset events there have been; `Config.resetWord` is applied to it (log 6). -/
  resets : Nat
  /-- The model's own: the events of the total order still to come (20_memory.md R76; log 1). -/
  schedule : List Event
  /-- The model's own: the port's answers to the host, newest first (log 7). -/
  responses : List Response
deriving DecidableEq, Repr

/-- Reasons for which the machine stops with a fault: the spec has none. The two errors of 60_exceptions.md R200 are
command outcomes after which the engine goes on, and a bus `ERROR` is a response (log 16). -/
inductive Fault where
deriving DecidableEq, Repr

/-- Reasons for which the model gives an instruction no meaning. -/
inductive Refusal where
  /-- Raised by an arm of `exec` whose instruction has no meaning yet; safe. Every arm of this model has its meaning. -/
  | notModelled (mnemonic : String)
deriving DecidableEq, Repr

/-- The engine with `k`-word operand registers right after reset (10_state.md R51). DESIGN CHOICE, unsafe (log 5): the operand
registers, which the spec leaves unspecified, hold 0 here. -/
def State.resetOf (k : Nat) : State :=
  { k := k
    N := List.replicate k 0#32, A := List.replicate k 0#32, B := List.replicate k 0#32
    E := List.replicate k 0#32, R := List.replicate k 0#32
    cmdreg := 0x00000000#32, status := Status.clear, ie := false
    resets := 0, schedule := [], responses := [] }

/-- The machine right after reset at the default `NBITS = 2048` (00_scope.md R7, 10_state.md R51). -/
def State.reset : State := State.resetOf Config.defaultK

end Sys2Proof.Machine
end

