-- ==== Sys2Proof/Machine/Flags.lean ====
section
/-! DEFINITION. `STATUS` as a word and every computation of a flag (10_state.md R32 to R41, R50). -/

namespace Sys2Proof.Machine

/-- The four bits of `ECODE` (60_exceptions.md R200). -/
def ErrorCode.code : ErrorCode → BitVec 4
  | .none => 0#4
  | .illegalCmd => 1#4
  | .modZero => 2#4

/-- `STATUS` as the host reads it, reserved bits 0 (10_state.md R32). -/
def Status.word (st : Status) : Word :=
  (0#20 ++ st.ecode.code ++ 0#2 ++ BitVec.ofBool st.accerr ++ BitVec.ofBool st.z ++ BitVec.ofBool st.ge
    ++ BitVec.ofBool st.err ++ BitVec.ofBool st.done ++ BitVec.ofBool st.busy : BitVec 32)

/-- `CTRL` as the host reads it: 31 zero bits and `IE` (10_state.md R41). -/
def ctrlWord (ie : Bool) : Word := (0#31 ++ BitVec.ofBool ie : BitVec 32)

/-- `PARAM`: `VER` in bits 15:8, `K` in bits 7:0, the rest 0 (10_state.md R30). -/
def paramWord (k : Nat) : Word := (0#16 ++ BitVec.ofNat 8 Config.version ++ BitVec.ofNat 8 k : BitVec 32)

/-- A host write of `v` to `STATUS`: bits 1 and 5 are write-one-to-clear, all other bits of `v` are ignored (10_state.md R32). -/
def Status.writeOneToClear (st : Status) (v : Word) : Status :=
  { st with done := st.done && !v.getLsbD 1, accerr := st.accerr && !v.getLsbD 5 }

/-- What acceptance does to `STATUS`; `ACCERR` is unchanged (10_state.md R49). -/
def Status.accepted (st : Status) : Status :=
  { st with busy := true, done := false, err := false, ecode := .none, ge := false, z := false }

/-- The last two lines of every completion step: `BUSY <- 0`, `DONE <- 1` (10_state.md R48). -/
def Status.finished (st : Status) : Status := { st with busy := false, done := true }

/-- `GE` for a command with the one operand `val(A)` (10_state.md R36). -/
def geOf (a n : Nat) : Bool := decide (n ≤ a)

/-- `GE` for `MODMUL`: one of the two factors is not below the modulus (10_state.md R36). -/
def geOfTwo (a b n : Nat) : Bool := decide (n ≤ a) || decide (n ≤ b)

/-- `Z`: the result is 0 (10_state.md R37). -/
def zOf (r : Nat) : Bool := decide (r = 0)

/-- The interrupt output: `DONE and IE` in every state, with no memory of its own (10_state.md R50). -/
def State.irq (s : State) : Bool := s.status.done && s.ie

end Sys2Proof.Machine
end

