-- ==== Sys2Proof/Machine/Operands.lean ====
section
/-! DEFINITION. Operand registers as integers and as words (00_scope.md R11), and their one home in the state. -/

namespace Sys2Proof.Machine

/-- `val(X)`: the sum of `X[i] * 2^(32*i)` (00_scope.md R11). -/
def valueOf : List Word → Nat
  | [] => 0
  | w :: ws => w.toNat + 2 ^ 32 * valueOf ws

/-- The `k` words of an integer, word `i` being `(v div 2^(32*i)) mod 2^32` (00_scope.md R11). -/
def wordsOf : Nat → Nat → List Word
  | 0, _ => []
  | k + 1, v => BitVec.ofNat 32 v :: wordsOf k (v / 2 ^ 32)

/-- `bit(X, j)`: bit `j mod 32` of word `X[j div 32]` (00_scope.md R11). -/
def bitOf (ws : List Word) (j : Nat) : Bool := (ws.getD (j / 32) 0#32).getLsbD (j % 32)

/-- The words of an operand register. -/
def State.bank (s : State) : Bank → List Word
  | .N => s.N
  | .A => s.A
  | .B => s.B
  | .E => s.E
  | .R => s.R

/-- The state with all words of an operand register written at once (20_memory.md R69). -/
def State.setBank (s : State) (x : Bank) (ws : List Word) : State :=
  match x with
  | .N => { s with N := ws }
  | .A => { s with A := ws }
  | .B => { s with B := ws }
  | .E => { s with E := ws }
  | .R => { s with R := ws }

/-- `val(X)` (00_scope.md R11). -/
def State.val (s : State) (x : Bank) : Nat := valueOf (s.bank x)

/-- `X[i]` (00_scope.md R12); the map of the window reaches only `i < K`. -/
def State.word (s : State) (x : Bank) (i : Nat) : Word := (s.bank x).getD i 0#32

/-- `X[i] <- v` (00_scope.md R12). -/
def State.setWord (s : State) (x : Bank) (i : Nat) (v : Word) : State := s.setBank x ((s.bank x).set i v)

/-- `X <- v` for an integer `v < 2^NBITS` writes every word (00_scope.md R11). -/
def State.setVal (s : State) (x : Bank) (v : Nat) : State := s.setBank x (wordsOf s.k v)

/-- `NBITS`, the width of an operand register in bits (00_scope.md R8). -/
def State.nbits (s : State) : Nat := Config.wordBits * s.k

/-- Byte `b` of an operand register: byte lane `b mod 4` of word `b div 4` (20_memory.md R63, R64). -/
def State.bankByte (s : State) (x : Bank) (b : Nat) : Byte := byteLane (s.word x (b / 4)) (b % 4)

end Sys2Proof.Machine
end

