-- ==== Sys2Proof/Machine/Ops.lean ====
section
/-! DEFINITION. The named operations on the engine's state: acceptance, the end of a completion step, the error entry and
its acknowledgement, the refused write, the modulus check and the result write. -/

namespace Sys2Proof.Machine

/-- `accept(v)`: the effect of a host write of `v` to `CMD` while not busy (10_state.md R49). Every word is latched, legal
or not (R31). -/
def State.accept (s : State) (v : Word) : State := { s with cmdreg := v, status := s.status.accepted }

/-- The end of every completion step (10_state.md R48). -/
def State.finish (s : State) : State := { s with status := s.status.finished }

/-- ERROR ENTRY, `raise <Error>(code)`: the command is abandoned, `ERR <- 1`, `ECODE <- code`, and the completion step
finishes as always; nothing is saved and control goes nowhere (60_exceptions.md R211). -/
def State.raiseError (s : State) (c : ErrorCode) : State :=
  State.finish { s with status := { s.status with err := true, ecode := c } }

/-- A host write of `v` to `STATUS` (10_state.md R32). There is no return from an error (60_exceptions.md R214): this write, with
bit 1 set, is the acknowledgement of an error or a completion; `ERR` and `ECODE` stay until the next acceptance. -/
def State.writeStatus (s : State) (v : Word) : State := { s with status := s.status.writeOneToClear v }

/-- A host write of `v` to `CTRL`: `IE <- v[0]` (10_state.md R41). -/
def State.writeCtrl (s : State) (v : Word) : State := { s with ie := v.getLsbD 0 }

/-- A refused write changes nothing except `ACCERR <- 1` (20_memory.md R71). -/
def State.refuseWrite (s : State) : State := { s with status := { s.status with accerr := true } }

/-- What the arithmetic commands write on the normal path: `R`, `GE`, and `Z` of the new `R` (40_arith_commands.md R120 to R126). -/
def State.writeResult (s : State) (r : Nat) (ge : Bool) : State :=
  { s.setVal .R r with status := { s.status with ge := ge, z := zOf r } }

/-- `check_modulus` (40_arith_commands.md R118): an arithmetic command with `val(N) = 0` ends in `MOD_ZERO` before any write;
otherwise it writes its result and the completion step finishes (10_state.md R48). -/
def State.arithmetic (s : State) (r : Nat) (ge : Bool) : State :=
  if s.val .N = 0 then s.raiseError .modZero else (s.writeResult r ge).finish

/-- The answer to a host access joins those given before (log 7). -/
def State.respond (s : State) (r : Response) : State := { s with responses := r :: s.responses }

end Sys2Proof.Machine
end

