-- ==== Sys2Proof/Machine/Bus.lean ====
section
/-! DEFINITION. The slave port: the map of the window, reads and writes (20_memory.md sections 1 to 4). -/

namespace Sys2Proof.Machine

/-- What a mapped word of the window is (20_memory.md R61). -/
inductive Location where
  /-- `ID`. -/
  | id
  /-- `PARAM`. -/
  | param
  /-- `CMD`. -/
  | cmd
  /-- `STATUS`. -/
  | status
  /-- `CTRL`. -/
  | ctrl
  /-- Word `i` of an operand register. -/
  | operand (x : Bank) (i : Nat)
deriving DecidableEq, Repr

/-- The offsets of `CMD`, `STATUS` and `CTRL` (10_state.md R28). -/
def cmdOffset : Offset := 0x008#12

/-- See `cmdOffset`. -/
def statusOffset : Offset := 0x00C#12

/-- See `cmdOffset`. -/
def ctrlOffset : Offset := 0x010#12

/-- `offset(X)` (30_encoding.md R98, 20_memory.md R61). -/
def bankOffset : Bank → Nat
  | .N => 0x200
  | .A => 0x400
  | .B => 0x600
  | .E => 0x800
  | .R => 0xA00

/-- The offset of word `i` of an operand register, `offset(X) + 4*i` (20_memory.md R61). -/
def wordOffset (x : Bank) (i : Nat) : Offset := BitVec.ofNat 12 (bankOffset x + 4 * i)

/-- The operand register whose slot of `0x200` bytes has this number, counted from `0x000` (20_memory.md R61). -/
def bankOfSlot : Nat → Option Bank
  | 1 => some .N
  | 2 => some .A
  | 3 => some .B
  | 4 => some .E
  | 5 => some .R
  | _ => none

/-- The map of the window at a word-aligned offset; `none` where it is unmapped (20_memory.md R61). -/
def mapped (k : Nat) (off : Nat) : Option Location :=
  match off with
  | 0x000 => some .id
  | 0x004 => some .param
  | 0x008 => some .cmd
  | 0x00C => some .status
  | 0x010 => some .ctrl
  | _ =>
    match bankOfSlot (off / Config.bankStride) with
    | some x => if off % Config.bankStride < 4 * k then some (.operand x (off % Config.bankStride / 4)) else none
    | none => none

/-- The word an access is to: the port accepts 4 bytes at a multiple of 4, and only at a mapped offset (20_memory.md R67, R68). -/
def locate (k : Nat) (off : Offset) (size : Nat) : Option Location :=
  if size = 4 ∧ off.toNat % 4 = 0 then mapped k off.toNat else none

/-- The value of a mapped word (20_memory.md R70): an operand word reads as 0 while busy. -/
def readLocation (s : State) : Location → Word
  | .id => Config.idValue
  | .param => paramWord s.k
  | .cmd => s.cmdreg
  | .status => s.status.word
  | .ctrl => ctrlWord s.ie
  | .operand x i => if s.status.busy then 0x00000000#32 else s.word x i

/-- The effect of a write to a mapped word (20_memory.md R71). -/
def writeLocation (s : State) (v : Word) : Location → State
  | .id => s.refuseWrite
  | .param => s.refuseWrite
  | .cmd => if s.status.busy then s.refuseWrite else s.accept v
  | .status => s.writeStatus v
  | .ctrl => s.writeCtrl v
  | .operand x i => if s.status.busy || !x.hostWritable then s.refuseWrite else s.setWord x i v

/-- `MemRead(off, size)`: a read changes no state (20_memory.md R68, R70). -/
def busRead (s : State) (off : Offset) (size : Nat) : Response :=
  match locate s.k off size with
  | some l => .data (readLocation s l)
  | none => .error

/-- The answer to `MemWrite(off, size, v)`: `OK` for every mapped, aligned word, refused or not (20_memory.md R68, R71). -/
def busWriteResponse (s : State) (off : Offset) (size : Nat) : Response :=
  match locate s.k off size with
  | some _ => .ok
  | none => .error

/-- The effect of `MemWrite(off, size, v)`: an access that gets `ERROR` changes no state at all (20_memory.md R68, R71). -/
def busWrite (s : State) (off : Offset) (size : Nat) (v : Word) : State :=
  match locate s.k off size with
  | some l => writeLocation s v l
  | none => s

/-- The offset of a byte address of the host's address space, where it lies in the window (20_memory.md R60, R73). -/
def offsetOfAddress (addr : Nat) : Option Offset :=
  if Config.base ≤ addr ∧ addr < Config.base + Config.windowBytes then some (BitVec.ofNat 12 (addr - Config.base))
  else none

end Sys2Proof.Machine
end

