-- ==== Sys2Proof/Machine/Bignum.lean ====
section
/-! DEFINITION. The multiplier and reduction unit as functions on exact integers (40_arith_commands.md section 1). -/

namespace Sys2Proof.Machine

/-- `modmul(x, y, n)`: the exact product, reduced (40_arith_commands.md R110). -/
def modmul (x y n : Nat) : Nat := (x * y) % n

/-- `modsqr(x, n)` (40_arith_commands.md R111). -/
def modsqr (x n : Nat) : Nat := modmul x x n

/-- `modred(x, n)` (40_arith_commands.md R111). -/
def modred (x n : Nat) : Nat := x % n

/-- The body of the reference algorithm's loop, for bit `j` of the exponent (40_arith_commands.md R115). -/
def modexpStep (a e n j r : Nat) : Nat :=
  if (e / 2 ^ j) % 2 = 1 then modmul (modmul r r n) a n else modmul r r n

/-- The reference algorithm's loop over the exponent's bits `j - 1` down to 0 (40_arith_commands.md R115). -/
def modexpLoop (a e n : Nat) : Nat → Nat → Nat
  | 0, r => r
  | j + 1, r => modexpLoop a e n j (modexpStep a e n j r)

/-- `modexp(a, e, n)` by left-to-right binary square and multiply over all `NBITS` bits of the exponent, the spec's
reference algorithm (40_arith_commands.md R115); `a^e` itself is never formed (log 14). -/
def modexp (nbits a e n : Nat) : Nat := modexpLoop a e n nbits (1 % n)

/-- The bit length of `n`: the least `k` with `n < 2^k` (40_arith_commands.md R113). -/
def bitLength (n : Nat) : Nat := if n = 0 then 0 else Nat.log2 n + 1

/-- Barrett's estimate of the quotient of `x` by `n` (40_arith_commands.md R113). -/
def barrettQuotient (x n : Nat) : Nat :=
  ((x / 2 ^ (bitLength n - 1)) * (2 ^ (2 * bitLength n) / n)) / 2 ^ (bitLength n + 1)

/-- "while `r >= n` do `r <- r - n`", at most so many times (40_arith_commands.md R113). -/
def correctRemainder (n : Nat) : Nat → Nat → Nat
  | 0, r => r
  | times + 1, r => if n ≤ r then correctRemainder n times (r - n) else r

/-- The informative Barrett reduction of 40_arith_commands.md R113: an estimate and at most two corrections. It "binds no model":
no command calls it. -/
def barrettReduce (x n : Nat) : Nat := correctRemainder n 2 (x - barrettQuotient x n * n)

end Sys2Proof.Machine
end

