-- ==== Sys2Proof/Machine/Arith.lean ====
section
/-! DEFINITION. The meanings of the arithmetic commands `MODEXP`, `MODMUL`, `MODSQR`, `MODRED`: the whole effect of their
completion step (40_arith_commands.md section 2, 10_state.md R48; log 15). -/

namespace Sys2Proof.Machine

/-- `MODEXP` (40_arith_commands.md R120): `R <- val(A)^val(E) mod val(N)`. -/
def execModexp (s : State) : Host.Outcome State Fault Refusal :=
  .next (s.arithmetic (modexp s.nbits (s.val .A) (s.val .E) (s.val .N)) (geOf (s.val .A) (s.val .N)))

/-- `MODMUL` (40_arith_commands.md R122): `R <- val(A) * val(B) mod val(N)`. -/
def execModmul (s : State) : Host.Outcome State Fault Refusal :=
  .next (s.arithmetic (modmul (s.val .A) (s.val .B) (s.val .N)) (geOfTwo (s.val .A) (s.val .B) (s.val .N)))

/-- `MODSQR` (40_arith_commands.md R124): `R <- val(A) * val(A) mod val(N)`. -/
def execModsqr (s : State) : Host.Outcome State Fault Refusal :=
  .next (s.arithmetic (modsqr (s.val .A) (s.val .N)) (geOf (s.val .A) (s.val .N)))

/-- `MODRED` (40_arith_commands.md R126): `R <- val(A) mod val(N)`. -/
def execModred (s : State) : Host.Outcome State Fault Refusal :=
  .next (s.arithmetic (modred (s.val .A) (s.val .N)) (geOf (s.val .A) (s.val .N)))

end Sys2Proof.Machine
end

