-- ==== Sys2Proof/Machine/MoveControl.lean ====
section
/-! DEFINITION. The meanings of the move and control commands `NOP`, `MOVRA`, `MOVRB`, `CLR`: the whole effect of their
completion step (41_move_control_commands.md section 1, 10_state.md R48; log 15). -/

namespace Sys2Proof.Machine

/-- `NOP` (41_move_control_commands.md R140): only the end of the completion step. -/
def execNop (s : State) : Host.Outcome State Fault Refusal := .next s.finish

/-- `MOVRA` (41_move_control_commands.md R142): `A <- R`, all words at once. -/
def execMovra (s : State) : Host.Outcome State Fault Refusal := .next (s.setBank .A (s.bank .R)).finish

/-- `MOVRB` (41_move_control_commands.md R144): `B <- R`, all words at once. -/
def execMovrb (s : State) : Host.Outcome State Fault Refusal := .next (s.setBank .B (s.bank .R)).finish

/-- Every operand register with all its words 0 (41_move_control_commands.md R147). -/
def State.clearBanks (s : State) : State :=
  ((((s.setVal .N 0).setVal .A 0).setVal .B 0).setVal .E 0).setVal .R 0

/-- `CLR` (41_move_control_commands.md R147): all five operand registers become 0; `Z` is not written. -/
def execClr (s : State) : Host.Outcome State Fault Refusal := .next s.clearBanks.finish

end Sys2Proof.Machine
end

