-- ==== Sys2Proof/Machine/Dispatch.lean ====
section
/-! DEFINITION. One arm per command: the whole effect of its completion step (30_encoding.md R94, 10_state.md R48). -/

namespace Sys2Proof.Machine

def exec (i : Instr) (s : State) : Host.Outcome State Fault Refusal :=
  match i with
  | .nop => Sys2Proof.Machine.execNop s
  | .modexp => Sys2Proof.Machine.execModexp s
  | .modmul => Sys2Proof.Machine.execModmul s
  | .modsqr => Sys2Proof.Machine.execModsqr s
  | .modred => Sys2Proof.Machine.execModred s
  | .movra => Sys2Proof.Machine.execMovra s
  | .movrb => Sys2Proof.Machine.execMovrb s
  | .clr => Sys2Proof.Machine.execClr s

end Sys2Proof.Machine
end

