-- ==== Sys2Proof/Machine/Agents.lean ====
section
/-! DEFINITION. What each event of the total order does: a host access, the engine's completion step, a reset
(00_scope.md R13, 20_memory.md R76, R77). -/

namespace Sys2Proof.Machine

/-- The body of the completion step: `execute(CMDREG)`, an illegal word ending in `ILLEGAL_CMD` (10_state.md R48,
30_encoding.md R94, R95). -/
def executeCommand (s : State) : Host.Outcome State Fault Refusal :=
  match decode s.cmdreg with
  | .ok i => exec i s
  | .error _ => .next (s.raiseError .illegalCmd)

/-- The engine's turn: the completion step "is enabled exactly when STATUS.BUSY = 1" (10_state.md R48); an idle engine stays as
it is (log 2, 3). -/
def completionTurn (s : State) : Host.Outcome State Fault Refusal :=
  if s.status.busy then executeCommand s else .next s

/-- The unspecified words an operand register holds after a reset event (70_reset_and_hazards.md R231; log 6): one free value
per word, stable until written. -/
def resetBank (s : State) (x : Bank) : List Word :=
  (List.range s.k).map fun i => Config.resetWord s.resets (bankOffset x + 4 * i)

/-- Reset (70_reset_and_hazards.md R231, R232): the control registers become 0 and the operand registers unspecified. The host's
further events and the answers it has are no state of the engine and stay. -/
def applyReset (s : State) : State :=
  { s with
    N := resetBank s .N, A := resetBank s .A, B := resetBank s .B, E := resetBank s .E, R := resetBank s .R
    cmdreg := 0x00000000#32, status := Status.clear, ie := false
    resets := s.resets + 1 }

/-- One event of the total order, at the state in which its turn comes. -/
def takeEvent (s : State) : Event → Host.Outcome State Fault Refusal
  | .read off size => .next (s.respond (busRead s off size))
  | .write off size v => .next ((busWrite s off size v).respond (busWriteResponse s off size))
  | .completion => completionTurn s
  | .reset => .next (applyReset s)

end Sys2Proof.Machine
end

