-- ==== Sys2Proof/Machine/Step.lean ====
section
/-! DEFINITION. One step of the machine, and where a command is placed so that the next step runs it. -/

namespace Sys2Proof.Machine

/-- One step: the next event of the schedule takes its turn; with none left the engine has the turn (log 1, 2). -/
def step (s : State) : Host.Outcome State Fault Refusal :=
  match s.schedule with
  | [] => completionTurn s
  | ev :: rest => takeEvent { s with schedule := rest } ev

/-- `s` with a command word placed where the next step runs it: latched as an acceptance latches it (10_state.md R49), with the
engine's turn first in the schedule (log 13). -/
def State.withFetchWord (s : State) (nbits w : Nat) : State :=
  { s.accept (BitVec.ofNat 32 (w % 2 ^ nbits)) with schedule := .completion :: s.schedule }

end Sys2Proof.Machine
end

