-- ==== Sys2Proof/Machine/Assembler.lean ====
section
/-! DEFINITION. The host's notation: what each statement is as bus transactions (30_encoding.md R98, R99), and the reader
of a line of it (R97, R98). Host software, beside the engine (00_scope.md R5). -/

namespace Sys2Proof.Machine

/-- The mnemonic of a command (30_encoding.md R94). -/
def mnemonicOf : Instr → String
  | .nop => "NOP"
  | .modexp => "MODEXP"
  | .modmul => "MODMUL"
  | .modsqr => "MODSQR"
  | .modred => "MODRED"
  | .movra => "MOVRA"
  | .movrb => "MOVRB"
  | .clr => "CLR"

/-- The eight commands in the order of their opcodes (30_encoding.md R94). -/
def allCommands : List Instr := [.nop, .modexp, .modmul, .modsqr, .modred, .movra, .movrb, .clr]

/-- A mnemonic is one transaction: `MemWrite(0x008, 4, opcode)` (30_encoding.md R98). -/
def commandEvent (i : Instr) : Event := .write cmdOffset 4 (encode i)

/-- `LOAD`'s writes from word `i` on, lowest word first (30_encoding.md R99). -/
def loadEvents (x : Bank) : Nat → List Word → List Event
  | _, [] => []
  | i, w :: ws => .write (wordOffset x i) 4 w :: loadEvents x (i + 1) ws

/-- `READ`'s reads of all `k` words, lowest word first (30_encoding.md R99). -/
def readEvents (x : Bank) (k : Nat) : List Event := (List.range k).map fun i => .read (wordOffset x i) 4

/-- `WAIT`: reads of `STATUS` until one returns `BUSY = 0`. So many reads come before the completion and one after it; the number
"is not determined by the spec" (30_encoding.md R99; log 25). -/
def waitEvents (busyPolls : Nat) : List Event :=
  List.replicate busyPolls (.read statusOffset 4) ++ [.completion, .read statusOffset 4]

/-- The events of one statement, on an engine with `k`-word operand registers (30_encoding.md R98, R99). The engine's turn stands in
`WAIT` and `RUN` alone (DESIGN CHOICE, log 28). -/
def stmtEvents (k busyPolls : Nat) : Stmt → List Event
  | .wr off v => [.write off 4 v]
  | .rd off => [.read off 4]
  | .command i => [commandEvent i]
  | .load x v => loadEvents x 0 (wordsOf k v)
  | .readBank x => readEvents x k
  | .wait => waitEvents busyPolls
  | .run i => commandEvent i :: waitEvents busyPolls
  | .ack => [.write statusOffset 4 0x00000002#32]
  | .ackerr => [.write statusOffset 4 0x00000020#32]
  | .irqon => [.write ctrlOffset 4 0x00000001#32]
  | .irqoff => [.write ctrlOffset 4 0x00000000#32]

/-- A program is a sequence of statements, executed in order (30_encoding.md R97). Each statement stands beside the number of its
own busy polls: the spec does not determine how many reads a `WAIT` makes (R99), and two `WAIT`s of one program may differ in it;
that it is an argument, read by `WAIT` and `RUN` alone, is the model's choice (DESIGN CHOICE, log 25). A command started by a bare
mnemonic or by `WR CMD` completes in this list at the next `WAIT` or `RUN` and not earlier, where 10_state.md R48 allows the
completion among the statements between them: the model's choice (DESIGN CHOICE, log 28), of this list and not of `step`. -/
def programEvents (k : Nat) (p : List (Nat × Stmt)) : List Event := p.flatMap fun st => stmtEvents k st.1 st.2

/-- The value `READ X -> v` shows: the words returned, the first read least significant (30_encoding.md R99). -/
def valueRead : List Response → Nat
  | [] => 0
  | .data w :: rs => w.toNat + 2 ^ 32 * valueRead rs
  | .ok :: rs => 2 ^ 32 * valueRead rs
  | .error :: rs => 2 ^ 32 * valueRead rs

/-- The value of a digit in a base of at most 16 (30_encoding.md R98: decimal, or hexadecimal with `0x`). -/
def digitValue (base : Nat) (c : Char) : Option Nat :=
  let v := if '0' ≤ c ∧ c ≤ '9' then c.toNat - '0'.toNat
    else if 'A' ≤ c ∧ c ≤ 'F' then c.toNat - 'A'.toNat + 10
    else if 'a' ≤ c ∧ c ≤ 'f' then c.toNat - 'a'.toNat + 10
    else base
  if v < base then some v else none

/-- The digits from here on, after those whose value is the accumulator. -/
def digitsValue (base : Nat) : Nat → List Char → Option Nat
  | acc, [] => some acc
  | acc, c :: cs =>
    match digitValue base c with
    | some d => digitsValue base (acc * base + d) cs
    | none => none

/-- A number: decimal, or hexadecimal with `0x` (30_encoding.md R98). -/
def numberOf : List Char → Option Nat
  | [] => none
  | ['0', 'x'] => none
  | '0' :: 'x' :: cs => digitsValue 16 0 cs
  | cs => digitsValue 10 0 cs

/-- The name of an operand register (30_encoding.md R98). -/
def bankNamed : List Char → Option Bank
  | ['N'] => some .N
  | ['A'] => some .A
  | ['B'] => some .B
  | ['E'] => some .E
  | ['R'] => some .R
  | _ => none

/-- An offset: a number below `0x1000`, the name of a control register, or `X[i]` for `offset(X) + 4*i`
with `i < 128` (30_encoding.md R98). -/
def offsetNamed (t : List Char) : Option Offset :=
  if t = "ID".toList then some 0x000#12
  else if t = "PARAM".toList then some 0x004#12
  else if t = "CMD".toList then some cmdOffset
  else if t = "STATUS".toList then some statusOffset
  else if t = "CTRL".toList then some ctrlOffset
  else match t with
    | x :: '[' :: rest =>
      match bankNamed [x], numberOf rest.dropLast, rest.getLast? with
      | some bank, some i, some ']' => if i < Config.maxK then some (wordOffset bank i) else none
      | _, _, _ => none
    | _ =>
      match numberOf t with
      | some v => if v < Config.windowBytes then some (BitVec.ofNat 12 v) else none
      | none => none

/-- A word of data: a number below `2^32` (30_encoding.md R98). -/
def wordNamed (t : List Char) : Option Word :=
  match numberOf t with
  | some v => if v < 2 ^ Config.wordBits then some (BitVec.ofNat 32 v) else none
  | none => none

/-- The command of a mnemonic (30_encoding.md R94). -/
def commandNamed (t : List Char) : Option Instr := allCommands.find? fun i => (mnemonicOf i).toList = t

/-- The line up to a comment, `#` to the end of the line (30_encoding.md R97). -/
def withoutComment (line : List Char) : List Char := line.takeWhile (· ≠ '#')

/-- The words of a line, spaces and commas between them; the first argument is the word being read, in reverse. -/
def wordsOfLine : List Char → List Char → List (List Char)
  | [], [] => []
  | w, [] => [w.reverse]
  | w, c :: cs =>
    if c = ' ' ∨ c = ',' then
      match w with
      | [] => wordsOfLine [] cs
      | _ => w.reverse :: wordsOfLine [] cs
    else wordsOfLine (c :: w) cs

/-- A statement from its words; what follows `->` only names the value returned (30_encoding.md R98, R99). -/
def stmtOfWords (ws : List (List Char)) : Option Stmt :=
  match ws with
  | [t] =>
    if t = "WAIT".toList then some .wait
    else if t = "ACK".toList then some .ack
    else if t = "ACKERR".toList then some .ackerr
    else if t = "IRQON".toList then some .irqon
    else if t = "IRQOFF".toList then some .irqoff
    else (commandNamed t).map .command
  | [t, u] =>
    if t = "RD".toList then (offsetNamed u).map .rd
    else if t = "READ".toList then (bankNamed u).map .readBank
    else if t = "RUN".toList then (commandNamed u).map .run
    else none
  | [t, u, v] =>
    if t = "WR".toList then
      match offsetNamed u, wordNamed v with
      | some off, some w => some (.wr off w)
      | _, _ => none
    else if t = "LOAD".toList then
      match bankNamed u, numberOf v with
      | some x, some n => some (.load x n)
      | _, _ => none
    else none
  | _ => none

/-- One line of a program (30_encoding.md R97 to R99; log 24): its statement, if it holds a legal one. -/
def stmtOfLine (line : List Char) : Option Stmt :=
  stmtOfWords ((wordsOfLine [] (withoutComment line)).takeWhile (· ≠ "->".toList))

end Sys2Proof.Machine
end

