-- ==== Sys2Proof/Machine/Software.lean ====
section
/-! DEFINITION. The host software around the engine (48_host_rsa_flows.md): conversions, the cipher's flows as host
programs, the key generator's contract, the text artifacts and the software's errors. None of it is hardware (00_scope.md R5). -/

namespace Sys2Proof.Machine

/-- The errors of the software (48_host_rsa_flows.md R183). Its fourth name, PlaintextTooLarge, is no error: `STATUS.GE`
warns (R169). -/
inductive SoftwareError where
  /-- `InvalidInput`. -/
  | invalidInput
  /-- `ArithmeticError(NoInverse)` (R175). -/
  | noInverse
  /-- `DecodeError` (R166). -/
  | decodeError
deriving DecidableEq, Repr

/-- Bytes to integer: big-endian, unsigned; the empty string gives 0 (48_host_rsa_flows.md R160, R161). -/
def bytesToInt : List Byte → Nat
  | [] => 0
  | b :: bs => b.toNat * 256 ^ bs.length + bytesToInt bs

/-- `L`, the least integer with `m < 256^L` (48_host_rsa_flows.md R162). -/
def byteLength (m : Nat) : Nat := (bitLength m + 7) / 8

/-- Integer to bytes: `s[j] = (m div 256^(L-1-j)) mod 256`, minimal, so empty for 0 (48_host_rsa_flows.md R162). -/
def intToBytes (m : Nat) : List Byte :=
  (List.range (byteLength m)).map fun j => BitVec.ofNat 8 (m / 256 ^ (byteLength m - 1 - j))

/-- A decimal digit as a character. -/
def digitChar (d : Nat) : Char := Char.ofNat ('0'.toNat + d)

/-- The `len` low decimal digits of `c`, most significant first. -/
def decimalDigits : Nat → Nat → List Char
  | 0, _ => []
  | len + 1, c => decimalDigits len (c / 10) ++ [digitChar (c % 10)]

/-- The number of decimal digits of `c` that are written, found with so much fuel: at least 1. -/
def decimalLength : Nat → Nat → Nat
  | 0, _ => 1
  | fuel + 1, c => if c < 10 then 1 else decimalLength fuel (c / 10) + 1

/-- Integer to decimal string: no leading zero, and `0` for 0 (48_host_rsa_flows.md R164). -/
def renderDecimal (c : Nat) : List Char := decimalDigits (decimalLength (bitLength c) c) c

/-- Decimal string to integer: a non-empty string of digits, leading zeros allowed (48_host_rsa_flows.md R165). -/
def parseDecimal (cs : List Char) : Except SoftwareError Nat :=
  match cs with
  | [] => .error .invalidInput
  | _ =>
    match digitsValue 10 0 cs with
    | some c => .ok c
    | none => .error .invalidInput

/-- A plaintext's raw bytes (48_host_rsa_flows.md R160: UTF-8). -/
def textToBytes (t : String) : List Byte := t.toUTF8.toList.map UInt8.toBitVec

/-- Bytes to text, failing where they are not valid UTF-8 (48_host_rsa_flows.md R166; log 20). -/
def bytesToText (bs : List Byte) : Except SoftwareError String :=
  match String.fromUTF8? (ByteArray.mk (bs.map UInt8.ofBitVec).toArray) with
  | some t => .ok t
  | none => .error .decodeError

/-- A value the host may load: below `2^NBITS` (48_host_rsa_flows.md R171). -/
def fitsOperand (k v : Nat) : Bool := decide (v < 2 ^ (Config.wordBits * k))

/-- The engine program of both cipher operations: modulus, exponent, base (48_host_rsa_flows.md R167, R168). -/
def cipherProgram (n e m : Nat) : List Stmt :=
  [.load .N n, .load .E e, .load .A m, .run .modexp, .rd statusOffset, .readBank .R]

/-- The program, where its three values fit the engine; a host must never drop high words (48_host_rsa_flows.md R171, R183). -/
def cipherStart (k n e m : Nat) : Except SoftwareError (List Stmt) :=
  if fitsOperand k n && fitsOperand k e && fitsOperand k m then .ok (cipherProgram n e m) else .error .invalidInput

/-- `encrypt` up to the engine's part (48_host_rsa_flows.md R167); there is no bound check of `m` against `n` (R169).
DESIGN CHOICE (log 27): a text longer than `NBITS/8` bytes is taken where leading zero bytes keep its integer below `2^NBITS`. -/
def encryptStart (k n e : Nat) (plaintext : List Byte) : Except SoftwareError (List Stmt) :=
  cipherStart k n e (bytesToInt plaintext)

/-- `encrypt` after the engine's part: `c` rendered (48_host_rsa_flows.md R164, R167). -/
def encryptFinish (c : Nat) : List Char := renderDecimal c

/-- `decrypt` up to the engine's part (48_host_rsa_flows.md R165, R168). -/
def decryptStart (k n d : Nat) (digits : List Char) : Except SoftwareError (List Stmt) :=
  match parseDecimal digits with
  | .ok c => cipherStart k n d c
  | .error err => .error err

/-- `decrypt` after the engine's part (48_host_rsa_flows.md R162, R166, R168); the bytes stay `intToBytes m` either way. -/
def decryptFinish (m : Nat) : Except SoftwareError String := bytesToText (intToBytes m)

/-- `generate` validates `bits`: positive and even, nothing else (48_host_rsa_flows.md R179). -/
def validateBits (bits : Int) : Except SoftwareError Nat :=
  if 0 < bits ∧ bits % 2 = 0 then .ok bits.toNat else .error .invalidInput

/-- What `generate` draws at random (48_host_rsa_flows.md R172): two primes, and exponent candidates in the order drawn. -/
structure KeyDraws where
  /-- The first prime. -/
  p : Nat
  /-- The second prime. -/
  q : Nat
  /-- The candidates for the public exponent. -/
  candidates : List Nat
deriving DecidableEq, Repr

/-- The draws are such as `generate bits` makes (48_host_rsa_flows.md R172, R176). -/
def KeyDraws.legal (bits : Nat) (g : KeyDraws) : Bool :=
  Config.probablePrime g.p && Config.probablePrime g.q
    && decide (bitLength g.p = bits / 2) && decide (bitLength g.q = bits / 2)
    && g.candidates.all fun e => Config.probablePrime e && decide (128 ≤ e) && decide (e ≤ 255)

/-- The legacy acceptance check `phi mod e != 0` (48_host_rsa_flows.md R174). -/
def exponentAccepted (phi e : Nat) : Bool := decide (phi % e ≠ 0)

/-- The same check as an engine program: accept when `Z = 0` in the last read (48_host_rsa_flows.md R173). -/
def exponentCheckProgram (phi e : Nat) : List Stmt := [.load .A phi, .load .N e, .run .modred, .rd statusOffset]

/-- The least `d` from 1 to `phi` with `d*e mod phi = 1 mod phi` (48_host_rsa_flows.md R172 step 5; log 23). -/
def modInverse (e phi : Nat) : Option Nat :=
  (List.range phi).map (· + 1) |>.find? fun d => decide (d * e % phi = 1 % phi)

/-- `generate(bits)` on given draws: `(n, e, d)`; `none` where every candidate drawn so far is rejected and the search, which has
no retry cap, goes on (48_host_rsa_flows.md R172, R175, R178, R179). -/
def generate (bits : Int) (g : KeyDraws) : Except SoftwareError (Option (Nat × Nat × Nat)) :=
  match validateBits bits with
  | .error err => .error err
  | .ok _ =>
    match g.candidates.find? (exponentAccepted ((g.p - 1) * (g.q - 1))) with
    | none => .ok none
    | some e =>
      match modInverse e ((g.p - 1) * (g.q - 1)) with
      | some d => .ok (some (g.p * g.q, e, d))
      | none => .error .noInverse

/-- The lines of the keypair artifact (48_host_rsa_flows.md R180). -/
def keypairArtifact (bits n e d : Nat) : List String :=
  let number (v : Nat) : String := String.ofList (renderDecimal v)
  ["START OF " ++ number bits ++ "-BIT RSA KEYPAIR", "---PUBLIC KEY:", number n, "---EXPONENT:", number e,
    "---PRIVATE KEY:", number d, "END OF " ++ number bits ++ "-BIT RSA KEYPAIR"]

/-- The lines of a ciphertext file (48_host_rsa_flows.md R181). -/
def ciphertextArtifact (c : Nat) : List String :=
  ["START OF CIPHERTEXT", String.ofList (renderDecimal c), "END OF CIPHERTEXT"]

end Sys2Proof.Machine
end

