-- ==== Sys2Proof/Safety.lean ====
section
/-! DEFINITION. What the statements speak of: the commands' tables (10_state.md R26, R40), the host's events, the invariant
of the engine's state, runs of the machine. -/

namespace Sys2Proof.Machine

/-- The four commands of 40_arith_commands.md. -/
def isArithmetic : Instr → Bool
  | .nop => false
  | .modexp => true
  | .modmul => true
  | .modsqr => true
  | .modred => true
  | .movra => false
  | .movrb => false
  | .clr => false

/-- The table of 10_state.md R26: the command reads ("r") the operand register. -/
def readsBank : Instr → Bank → Bool
  | .nop, _ => false
  | .modexp, x => x == .N || x == .A || x == .E
  | .modmul, x => x == .N || x == .A || x == .B
  | .modsqr, x => x == .N || x == .A
  | .modred, x => x == .N || x == .A
  | .movra, x => x == .R
  | .movrb, x => x == .R
  | .clr, _ => false

/-- The table of 10_state.md R26: the command writes ("w") the operand register. -/
def writesBank : Instr → Bank → Bool
  | .nop, _ => false
  | .modexp, x => x == .R
  | .modmul, x => x == .R
  | .modsqr, x => x == .R
  | .modred, x => x == .R
  | .movra, x => x == .A
  | .movrb, x => x == .B
  | .clr, _ => true

/-- The word is one of the eight of the opcode map (30_encoding.md R94). -/
def legalWord (w : Word) : Prop := ∃ i, w = encode i

/-- The offset is that of word `i` of the operand register (20_memory.md R61). -/
def isWordOffset (k : Nat) (off : Offset) (x : Bank) (i : Nat) : Prop := i < k ∧ off.toNat = bankOffset x + 4 * i

/-- The event is a host access, not the engine's turn and not a reset. -/
def isAccess : Event → Bool
  | .read _ _ => true
  | .write _ _ _ => true
  | .completion => false
  | .reset => false

/-- The invariant of the engine's state, which reset establishes and every step keeps. -/
structure State.Inv (s : State) : Prop where
  /-- `1 <= K <= 128` (00_scope.md R8). -/
  kLegal : 1 ≤ s.k ∧ s.k ≤ 128
  /-- An operand register has exactly `K` words (00_scope.md R11, 20_memory.md R62). -/
  bankLength : ∀ x, (s.bank x).length = s.k
  /-- "in every state ERR = 1 exactly when ECODE != 0" (10_state.md R35). -/
  errIffCode : s.status.err = true ↔ s.status.ecode ≠ .none
  /-- While busy the flags of the last command are 0 (10_state.md R33). -/
  busyClear : s.status.busy = true →
    s.status.done = false ∧ s.status.err = false ∧ s.status.ge = false ∧ s.status.z = false
  /-- A command that ended in error has left `GE` and `Z` 0 (10_state.md R36, R37). -/
  errClear : s.status.err = true → s.status.ge = false ∧ s.status.z = false
  /-- `Z = 1` only while the result register holds 0 (10_state.md R37). -/
  zResult : s.status.z = true → s.val .R = 0
  /-- `ILLEGAL_CMD` is reported of a word outside the map, which `CMD` still holds (60_exceptions.md R200). -/
  illegalCause : s.status.ecode = .illegalCmd → ¬ legalWord s.cmdreg
  /-- `MOD_ZERO` is reported of an arithmetic command, which `CMD` still holds (60_exceptions.md R200). -/
  modZeroCause : s.status.ecode = .modZero → ∃ i, isArithmetic i = true ∧ s.cmdreg = encode i
  /-- `GE` and `Z` are written by arithmetic commands only (10_state.md R36, R37). -/
  warnCause : s.status.ge = true ∨ s.status.z = true → ∃ i, isArithmetic i = true ∧ s.cmdreg = encode i

/-- The next event is the engine's turn: the schedule says so, or no host event is left (log 1, 2). -/
def State.engineTurn (s : State) : Prop := s.schedule = [] ∨ ∃ rest, s.schedule = .completion :: rest

/-- The state with the next event taken off the schedule. -/
def State.turnTaken (s : State) : State := { s with schedule := s.schedule.tail }

/-- After `k` steps the machine is at `t`. -/
def runsTo (k : Nat) (s t : State) : Prop := Host.Core.run Sys2Proof.core k s = .next t

/-- The state in which the events, before all others, are still to come. -/
def State.withEvents (s : State) (evs : List Event) : State := { s with schedule := evs ++ s.schedule }

end Sys2Proof.Machine
end

