-- ==== Sys2Proof/Certificates/Slice0/Obligations.lean ====
section
/-! DEFINITION. The statements for the provers. Each docstring says which rule of spec/ the statement formalises, or which
part of it is the model's own choice. The engine has no memory (20_memory.md R60): a frame is the equation of the whole next state, or the
list of registers kept. -/

open Sys2Proof Sys2Proof.Machine

/- ======== encoding ======== -/

/-- 30_encoding.md R94: the decoder selects each of the eight commands for its one word and for no other of the `2^32` words. -/
def Obligations.DecodeSelectsExactlyTheMap : Prop :=
  ∀ w : Word,
    (decode w = .ok .nop ↔ w = 0x00000000#32) ∧ (decode w = .ok .modexp ↔ w = 0x00000001#32) ∧
    (decode w = .ok .modmul ↔ w = 0x00000002#32) ∧ (decode w = .ok .modsqr ↔ w = 0x00000003#32) ∧
    (decode w = .ok .modred ↔ w = 0x00000004#32) ∧ (decode w = .ok .movra ↔ w = 0x00000005#32) ∧
    (decode w = .ok .movrb ↔ w = 0x00000006#32) ∧ (decode w = .ok .clr ↔ w = 0x00000007#32)

/-- 30_encoding.md R94 on single words: each command's word, as the spec writes it, decodes to the command. -/
def Obligations.SpecWordsDecodeToTheirCommands : Prop :=
  decode 0x00000000#32 = .ok .nop ∧ decode 0x00000001#32 = .ok .modexp ∧ decode 0x00000004#32 = .ok .modred ∧
  decode 0x00000005#32 = .ok .movra ∧ decode 0x00000007#32 = .ok .clr

/-- Decode and encode agree: the four bytes of a command's word, with anything after them, decode to that command and leave the
rest; and every word the decoder accepts is the encoding of what it gives. Rests on 30_encoding.md R90 and R94. -/
def Obligations.DecodeInvertsEncode : Prop :=
  (∀ (i : Instr) (rest : List Byte), decodeBytes (bytesOfWord (encode i) ++ rest) = .ok (i, rest)) ∧
  (∀ (w : Word) (i : Instr), decode w = .ok i → encode i = w)

/-- The decoder rejects every word outside the map, and says by which test: the bits 31:8 first, whatever the opcode. Rests
on 30_encoding.md R94 and R95. -/
def Obligations.IllegalWordsAreRejected : Prop :=
  ∀ w : Word,
    (256 ≤ w.toNat → decode w = .error .upperBitsSet) ∧
    (8 ≤ w.toNat → w.toNat < 256 → decode w = .error .opcodeUnassigned)

/- ======== operand registers ======== -/

/-- 00_scope.md R11: the value of a register as the sum over its words, its bound, the words of a value, and single bits. -/
def Obligations.OperandValueAndWords : Prop :=
  (∀ ws : List Word,
    valueOf ws = ((List.range ws.length).map fun i => (ws.getD i 0#32).toNat * 2 ^ (32 * i)).sum ∧
    valueOf ws < 2 ^ (32 * ws.length) ∧
    ∀ j, j < 32 * ws.length → bitOf ws j = decide (valueOf ws / 2 ^ j % 2 = 1)) ∧
  (∀ k v : Nat, v < 2 ^ (32 * k) →
    valueOf (wordsOf k v) = v ∧ (wordsOf k v).length = k ∧
    ∀ i, i < k → ((wordsOf k v).getD i 0#32).toNat = v / 2 ^ (32 * i) % 2 ^ 32)

/-- 20_memory.md R64: byte `b` of an operand register is bits `8*b+7 : 8*b` of its value, and word `i` bits `32*i+31 : 32*i`. -/
def Obligations.OperandIsLittleEndian : Prop :=
  ∀ (s : State) (x : Bank), s.Inv →
    (∀ b, b < 4 * s.k → (s.bankByte x b).toNat = s.val x / 2 ^ (8 * b) % 256) ∧
    (∀ i, i < s.k → (s.word x i).toNat = s.val x / 2 ^ (32 * i) % 2 ^ 32)

/-- 20_memory.md R65 (derived there): with the message of a byte string in `A`, byte `s[j]` of the string is byte `L-1-j` of `A`
and all bytes above the string are 0. -/
def Obligations.MessageBytesInRegisterA : Prop :=
  ∀ (s : State) (bs : List Byte), s.Inv → bs.length ≤ 4 * s.k →
    (∀ j, j < bs.length → (s.setVal .A (bytesToInt bs)).bankByte .A (bs.length - 1 - j) = bs.getD j 0#8) ∧
    (∀ b, bs.length ≤ b → b < 4 * s.k → (s.setVal .A (bytesToInt bs)).bankByte .A b = 0#8)

/- ======== the multiplier and reduction unit ======== -/

/-- Rests on 40_arith_commands.md R115 (marked there as derived from R110 and R114); that the engine runs R115's procedure is
DEDUCED (log 14). It gives `(a^e) mod n`, after the bits from `j` up it holds
`a^(e div 2^j) mod n`, and no product it forms is wider than `2*NBITS` bits. -/
def Obligations.ModexpProcedureIsThePower : Prop :=
  ∀ (nbits a e n : Nat), 1 ≤ n → e < 2 ^ nbits →
    modexp nbits a e n = a ^ e % n ∧
    (∀ j r, r = a ^ (e / 2 ^ (j + 1)) % n → modexpStep a e n j r = a ^ (e / 2 ^ j) % n) ∧
    (a < 2 ^ nbits → n < 2 ^ nbits → ∀ r, r < n → r * r < 2 ^ (2 * nbits) ∧ modmul r r n * a < 2 ^ (2 * nbits))

/-- Rests on 40_arith_commands.md R110, and on R111, which is derived there from R110: `modmul` is the unique remainder
of the exact product, which is below `2^(2*NBITS)`; and the squaring and reduction of R111 are cases of it. -/
def Obligations.ModmulIsTheUniqueRemainder : Prop :=
  ∀ (x y n : Nat), 1 ≤ n →
    modmul x y n < n ∧ (∃ q, x * y = q * n + modmul x y n) ∧
    (∀ r q, r < n → x * y = q * n + r → r = modmul x y n) ∧
    (∀ nbits, x < 2 ^ nbits → y < 2 ^ nbits → x * y < 2 ^ (2 * nbits)) ∧
    modsqr x n = modmul x x n ∧ modred x n = modmul x 1 n

/-- 40_arith_commands.md R116 (general knowledge there): an unreduced operand never changes what is computed. -/
def Obligations.UnreducedOperandsComputeTheSame : Prop :=
  ∀ (nbits x y a e n : Nat), 1 ≤ n → e < 2 ^ nbits →
    modmul x y n = modmul (x % n) (y % n) n ∧ modexp nbits a e n = modexp nbits (a % n) e n

/-- 40_arith_commands.md R113 (informative, general knowledge there): Barrett's estimate with at most two corrections is the
exact remainder, for every modulus and every `x < 2^(2k)`. -/
def Obligations.BarrettSketchIsExact : Prop :=
  ∀ (x n : Nat), 1 ≤ n → x < 2 ^ (2 * bitLength n) → barrettReduce x n = x % n

/- ======== the commands ======== -/

/-- 40_arith_commands.md R120: from every state `MODEXP` completes; with `val(N) != 0` it writes exactly `R`, `GE`, `Z`, `BUSY`, `DONE`,
with `val(N) = 0` it ends in `MOD_ZERO` and writes no operand register, `GE` or `Z`. -/
def Obligations.ModexpEffect : Prop :=
  decode 0x00000001#32 = .ok .modexp ∧ ∀ s : State, s.Inv →
    (s.val .N ≠ 0 → ∃ r : List Word, r.length = s.k ∧ valueOf r = s.val .A ^ s.val .E % s.val .N ∧
      exec .modexp s = .next { s with
        R := r
        status := { s.status with
          ge := decide (s.val .N ≤ s.val .A), z := decide (valueOf r = 0), busy := false, done := true } }) ∧
    (s.val .N = 0 → exec .modexp s = .next { s with
        status := { s.status with err := true, ecode := .modZero, busy := false, done := true } })

/-- 40_arith_commands.md R122: the same for `MODMUL`, whose `GE` is of either factor. -/
def Obligations.ModmulEffect : Prop :=
  decode 0x00000002#32 = .ok .modmul ∧ ∀ s : State, s.Inv →
    (s.val .N ≠ 0 → ∃ r : List Word, r.length = s.k ∧ valueOf r = s.val .A * s.val .B % s.val .N ∧
      exec .modmul s = .next { s with
        R := r
        status := { s.status with
          ge := decide (s.val .N ≤ s.val .A ∨ s.val .N ≤ s.val .B), z := decide (valueOf r = 0)
          busy := false, done := true } }) ∧
    (s.val .N = 0 → exec .modmul s = .next { s with
        status := { s.status with err := true, ecode := .modZero, busy := false, done := true } })

/-- 40_arith_commands.md R124: the same for `MODSQR`, which gives what `MODMUL` gives with `val(B) = val(A)`. -/
def Obligations.ModsqrEffect : Prop :=
  decode 0x00000003#32 = .ok .modsqr ∧ ∀ s : State, s.Inv →
    (s.val .N ≠ 0 → ∃ r : List Word, r.length = s.k ∧ valueOf r = s.val .A * s.val .A % s.val .N ∧
      exec .modsqr s = .next { s with
        R := r
        status := { s.status with
          ge := decide (s.val .N ≤ s.val .A), z := decide (valueOf r = 0), busy := false, done := true } }) ∧
    (s.val .N = 0 → exec .modsqr s = .next { s with
        status := { s.status with err := true, ecode := .modZero, busy := false, done := true } }) ∧
    (s.val .B = s.val .A → exec .modsqr s = exec .modmul s)

/-- 40_arith_commands.md R126: the same for `MODRED`; `GE` is 1 exactly when `R` differs from `A`, `Z` exactly when `val(N)` divides `val(A)`. -/
def Obligations.ModredEffect : Prop :=
  decode 0x00000004#32 = .ok .modred ∧ ∀ s : State, s.Inv →
    (s.val .N ≠ 0 → ∃ r : List Word, r.length = s.k ∧ valueOf r = s.val .A % s.val .N ∧
      (s.val .N ≤ s.val .A ↔ r ≠ s.A) ∧ (valueOf r = 0 ↔ s.val .N ∣ s.val .A) ∧
      exec .modred s = .next { s with
        R := r
        status := { s.status with
          ge := decide (s.val .N ≤ s.val .A), z := decide (valueOf r = 0), busy := false, done := true } }) ∧
    (s.val .N = 0 → exec .modred s = .next { s with
        status := { s.status with err := true, ecode := .modZero, busy := false, done := true } })

/-- 41_move_control_commands.md R140: `NOP` completes from every state and writes only `BUSY` and `DONE`; issued by an idle host, with its
acceptance, it clears the flags of the previous command and raises `DONE`, and `irq` when `IE = 1`, whatever the operand
registers hold. -/
def Obligations.NopEffect : Prop :=
  decode 0x00000000#32 = .ok .nop ∧ ∀ s : State,
    exec .nop s = .next { s with status := { s.status with busy := false, done := true } } ∧
    (∀ t, exec .nop s = .next t → t.irq = s.ie) ∧
    (s.status.busy = false → runsTo 2 (s.withEvents [.write cmdOffset 4 0x00000000#32, .completion]) { s with
      cmdreg := 0x00000000#32
      status := { Status.clear with done := true, accerr := s.status.accerr }
      responses := .ok :: s.responses })

/-- 41_move_control_commands.md R142 and R144: `MOVRA` and `MOVRB` complete from every state, copy all of `R`, and write nothing
else but `BUSY` and `DONE`. -/
def Obligations.MoveEffects : Prop :=
  decode 0x00000005#32 = .ok .movra ∧ decode 0x00000006#32 = .ok .movrb ∧ ∀ s : State,
    exec .movra s = .next { s with A := s.R, status := { s.status with busy := false, done := true } } ∧
    exec .movrb s = .next { s with B := s.R, status := { s.status with busy := false, done := true } }

/-- 41_move_control_commands.md R147: `CLR` completes from every state with `K` words of 0 in every operand register, and writes nothing
else but `BUSY` and `DONE`; `Z` is not written. -/
def Obligations.ClrEffect : Prop :=
  decode 0x00000007#32 = .ok .clr ∧ ∀ s : State,
    exec .clr s = .next { s with
      N := List.replicate s.k 0#32, A := List.replicate s.k 0#32, B := List.replicate s.k 0#32
      E := List.replicate s.k 0#32, R := List.replicate s.k 0#32
      status := { s.status with busy := false, done := true } }

/-- 40_arith_commands.md R132 (its table, all four arithmetic commands): a modulus of 1, a zero factor or base, an exponent of 0. -/
def Obligations.ArithmeticCornerCases : Prop :=
  ∀ s : State, s.Inv →
    (s.val .N = 1 → ∀ i, isArithmetic i = true → ∃ t, exec i s = .next t ∧ t.val .R = 0 ∧ t.status.z = true) ∧
    (s.val .N ≠ 0 → s.val .A = 0 ∨ s.val .B = 0 → ∃ t, exec .modmul s = .next t ∧ t.val .R = 0) ∧
    (s.val .N ≠ 0 → s.val .A = 0 →
      (∃ t, exec .modsqr s = .next t ∧ t.val .R = 0) ∧ (∃ t, exec .modred s = .next t ∧ t.val .R = 0) ∧
      (1 ≤ s.val .E → ∃ t, exec .modexp s = .next t ∧ t.val .R = 0)) ∧
    (s.val .N ≠ 0 → s.val .E = 0 → ∃ t, exec .modexp s = .next t ∧ t.val .R = 1 % s.val .N) ∧
    (s.val .N = 0 → ∀ i, isArithmetic i = true →
      ∃ t, exec i s = .next t ∧ t.R = s.R ∧ t.status.err = true ∧ t.status.ecode = .modZero)

/-- A successful arithmetic command leaves `val(R) < val(N)`, so no result is truncated. Rests on 10_state.md R25 and
40_arith_commands.md R131. -/
def Obligations.ResultIsBelowTheModulus : Prop :=
  ∀ (s : State) (i : Instr), s.Inv → isArithmetic i = true → s.val .N ≠ 0 →
    ∃ t, exec i s = .next t ∧ t.val .R < t.val .N ∧ t.N = s.N ∧ t.R.length = s.k ∧ t.status.err = s.status.err

/-- 10_state.md R26, the marks "-": an operand register the command does not write keeps its value, and no command touches
`CMDREG`, `ACCERR`, `IE`, `K` or the model's own fields. -/
def Obligations.CommandsTouchOnlyTheirRegisters : Prop :=
  ∀ (s : State) (i : Instr), ∃ t, exec i s = .next t ∧
    (∀ x, writesBank i x = false → t.bank x = s.bank x) ∧
    t.k = s.k ∧ t.cmdreg = s.cmdreg ∧ t.status.accerr = s.status.accerr ∧ t.ie = s.ie ∧
    t.resets = s.resets ∧ t.schedule = s.schedule ∧ t.responses = s.responses

/-- 10_state.md R26, the marks "r": two states that agree on `K`, `STATUS` and the operand registers a command reads get the same
`STATUS` and, when no error is flagged, the same destination registers. -/
def Obligations.CommandsDependOnlyOnWhatTheyRead : Prop :=
  ∀ (s s' : State) (i : Instr), s.k = s'.k → s.status = s'.status →
    (∀ x, readsBank i x = true → s.bank x = s'.bank x) →
    ∃ t t', exec i s = .next t ∧ exec i s' = .next t' ∧ t.status = t'.status ∧
      (t.status.err = false → ∀ x, writesBank i x = true → t.bank x = t'.bank x)

/-- 40_arith_commands.md R135 (general knowledge there), on the engine: for a key of distinct primes, `MODEXP` with `e`, `MOVRA`, then
`MODEXP` with `d` in `E` gives the message back. -/
def Obligations.RsaRoundTripOnTheEngine : Prop :=
  ∀ (s : State) (p q d : Nat), s.Inv → Nat.Prime p → Nat.Prime q → p ≠ q → s.val .N = p * q →
    d * s.val .E % ((p - 1) * (q - 1)) = 1 → d < 2 ^ s.nbits → s.val .A < s.val .N →
    ∃ t u v, exec .modexp s = .next t ∧ exec .movra t = .next u ∧ exec .modexp (u.setVal .E d) = .next v ∧
      v.val .R = s.val .A

/-- The source's exponent test on the engine (48_host_rsa_flows.md R173, 10_state.md R37): `MODRED` with `A = phi` and `N = e`
completes with `Z = 0` exactly when the legacy check accepts `e`. -/
def Obligations.ExponentCheckByModred : Prop :=
  ∀ s : State, s.val .N ≠ 0 →
    ∃ t, exec .modred s = .next t ∧ (t.status.z = false ↔ exponentAccepted (s.val .A) (s.val .N) = true)

/- ======== the completion step and the errors ======== -/

/-- 10_state.md R48: when the engine's turn comes and `BUSY = 1`, the step runs the decoded command. -/
def Obligations.StepRunsTheDecodedCommand : Prop :=
  ∀ (s : State) (i : Instr), s.engineTurn → s.status.busy = true → decode s.cmdreg = .ok i →
    step s = exec i s.turnTaken

/-- 10_state.md R48: the completion step is enabled exactly when `BUSY = 1`: then it ends with `BUSY = 0` and `DONE = 1`, whatever the
word; else the engine's turn changes no register. That an idle turn is a step at all is the model's choice (log 2, 3). -/
def Obligations.CompletionEnabledExactlyWhenBusy : Prop :=
  ∀ s : State, s.engineTurn →
    (s.status.busy = true → ∃ t, step s = .next t ∧ t.status.busy = false ∧ t.status.done = true ∧
      t.cmdreg = s.cmdreg ∧ t.status.accerr = s.status.accerr ∧ t.ie = s.ie) ∧
    (s.status.busy = false → step s = .next s.turnTaken)

/-- No step of the machine stops. That every state has a step, the idle engine with no event left included, is the model's choice
(log 2, 3). That a command error, a refused write and an `ERROR` response are no faults of the machine is read from 60_exceptions.md
R203, R211 and R215 (log 16); that an enabled completion step always exists, from 10_state.md R48. -/
def Obligations.EveryStepAnswersNext : Prop := ∀ s : State, ∃ t, step s = .next t

/-- `withFetchWord` places a command so that the next step runs it, from a state in which the word has been accepted (the
model's placement, log 13). -/
def Obligations.PlacedWordIsRunNext : Prop :=
  ∀ (s : State) (nbits w : Nat) (i : Instr), decodeTableWord nbits w = some i →
    step (s.withFetchWord nbits w) = exec i (s.accept (encode i)) ∧ (s.accept (encode i)).cmdreg = encode i

/-- 60_exceptions.md R201: the completion step of a word outside the map changes no operand register, `ERR <- 1`, `ECODE <- 1`,
whatever the operand registers hold. -/
def Obligations.IllegalWordEndsInError : Prop :=
  ∀ s : State, s.engineTurn → s.status.busy = true → ¬ legalWord s.cmdreg →
    step s = .next { s.turnTaken with
      status := { s.status with err := true, ecode := .illegalCmd, busy := false, done := true } }

/-- 60_exceptions.md R202: a zero modulus ends the four arithmetic commands in `MOD_ZERO` with no operand register, `GE` or `Z` changed,
and no other command raises it. -/
def Obligations.ZeroModulusEndsInError : Prop :=
  ∀ (s : State) (i : Instr), s.val .N = 0 →
    (isArithmetic i = true → exec i s = .next { s with
      status := { s.status with err := true, ecode := .modZero, busy := false, done := true } }) ∧
    (isArithmetic i = false → ∃ t, exec i s = .next t ∧
      t.status.err = s.status.err ∧ t.status.ecode = s.status.ecode)

/-- 60_exceptions.md R200 and R209: the two causes, each exactly when its condition holds; decoding comes before the modulus test.
The word stays readable in `CMD`, and `N` stays as it is. -/
def Obligations.ErrorCausesAreExact : Prop :=
  ∀ s : State, s.Inv → s.engineTurn → s.status.busy = true →
    ∃ t, step s = .next t ∧
      (t.status.ecode = .illegalCmd ↔ ¬ legalWord s.cmdreg) ∧
      (t.status.ecode = .modZero ↔ (∃ i, isArithmetic i = true ∧ s.cmdreg = encode i) ∧ s.val .N = 0) ∧
      (t.status.err = true ↔ t.status.ecode ≠ .none) ∧
      t.cmdreg = s.cmdreg ∧ (t.status.err = true → t.N = s.N) ∧
      (¬ legalWord s.cmdreg ↔ s.cmdreg.extractLsb' 8 24 ≠ 0#24 ∨ 0x08 ≤ (s.cmdreg.extractLsb' 0 8).toNat) ∧
      ErrorCode.none.code = 0#4 ∧ ErrorCode.illegalCmd.code = 1#4 ∧ ErrorCode.modZero.code = 2#4

/-- 60_exceptions.md R211 (and R212, derived there): a completion step that ends in error has changed only `ERR`, `ECODE`, `BUSY`
and `DONE`. -/
def Obligations.ErrorEntryChangesFourFields : Prop :=
  ∀ s t : State, s.Inv → s.engineTurn → s.status.busy = true → step s = .next t → t.status.err = true →
    t = { s.turnTaken with
      status := { s.status with err := true, ecode := t.status.ecode, busy := false, done := true } }

/-- 10_state.md R37, and the values R36 gives `GE`: what `Z` and `GE` are after each completion; acceptance and reset clear them; no
other event writes them. -/
def Obligations.WarningFlagsOfEachStep : Prop :=
  ∀ s : State, s.Inv → ∃ t, step s = .next t ∧
    (s.engineTurn → s.status.busy = true →
      (∀ i, s.cmdreg = encode i → isArithmetic i = true → s.val .N ≠ 0 →
        t.status.z = decide (t.val .R = 0) ∧
        (i ≠ .modmul → t.status.ge = decide (s.val .N ≤ s.val .A)) ∧
        (i = .modmul → t.status.ge = decide (s.val .N ≤ s.val .A ∨ s.val .N ≤ s.val .B))) ∧
      ((¬ ∃ i, s.cmdreg = encode i ∧ isArithmetic i = true ∧ s.val .N ≠ 0) →
        t.status.ge = false ∧ t.status.z = false)) ∧
    (∀ v rest, s.schedule = .write cmdOffset 4 v :: rest → s.status.busy = false →
      t.status.ge = false ∧ t.status.z = false) ∧
    (∀ rest, s.schedule = .reset :: rest → t.status.ge = false ∧ t.status.z = false) ∧
    (¬ (s.engineTurn ∧ s.status.busy = true) → (∀ v rest, s.schedule ≠ .write cmdOffset 4 v :: rest) →
      (∀ rest, s.schedule ≠ .reset :: rest) → t.status.ge = s.status.ge ∧ t.status.z = s.status.z)

/- ======== the slave port ======== -/

/-- 20_memory.md R61: the map of the window, for every legal `K`: each offset's content, and no other offset is mapped. -/
def Obligations.MapOfTheWindow : Prop :=
  (bankOffset .N = 0x200 ∧ bankOffset .A = 0x400 ∧ bankOffset .B = 0x600 ∧ bankOffset .E = 0x800 ∧
    bankOffset .R = 0xA00) ∧
  ∀ (k : Nat) (off : Offset), legalK k = true →
    (locate k off 4 = some .id ↔ off = 0x000#12) ∧ (locate k off 4 = some .param ↔ off = 0x004#12) ∧
    (locate k off 4 = some .cmd ↔ off = 0x008#12) ∧ (locate k off 4 = some .status ↔ off = 0x00C#12) ∧
    (locate k off 4 = some .ctrl ↔ off = 0x010#12) ∧
    (∀ x i, locate k off 4 = some (.operand x i) ↔ isWordOffset k off x i)

/-- 20_memory.md R68: an access of the wrong size, misaligned, or at an unmapped offset gets `ERROR` and changes no state at all,
not even `ACCERR`. -/
def Obligations.ErrorResponseChangesNothing : Prop :=
  ∀ (s : State) (off : Offset) (size : Nat) (v : Word),
    (size ≠ 4 ∨ off.toNat % 4 ≠ 0 ∨ (0x014 ≤ off.toNat ∧ off.toNat < 0x200) ∨ 0xC00 ≤ off.toNat ∨
      (0x200 ≤ off.toNat ∧ 4 * s.k ≤ off.toNat % 0x200)) →
    step (s.withEvents [.read off size]) = .next { s with responses := .error :: s.responses } ∧
    step (s.withEvents [.write off size v]) = .next { s with responses := .error :: s.responses }

/-- 20_memory.md R70: a read of a mapped word gets `OK` and the value of the table, and changes nothing but the answers given. -/
def Obligations.ReadsOfTheWindow : Prop :=
  ∀ s : State, s.Inv →
    step (s.withEvents [.read 0x000#12 4]) = .next { s with responses := .data 0x4D455850#32 :: s.responses } ∧
    step (s.withEvents [.read 0x004#12 4]) =
      .next { s with responses := .data (BitVec.ofNat 32 (0x100 + s.k)) :: s.responses } ∧
    step (s.withEvents [.read 0x008#12 4]) = .next { s with responses := .data s.cmdreg :: s.responses } ∧
    step (s.withEvents [.read 0x00C#12 4]) = .next { s with responses := .data s.status.word :: s.responses } ∧
    step (s.withEvents [.read 0x010#12 4]) =
      .next { s with responses := .data (if s.ie then 1#32 else 0#32) :: s.responses } ∧
    ∀ (x : Bank) (i : Nat) (off : Offset), isWordOffset s.k off x i →
      step (s.withEvents [.read off 4]) = .next { s with
        responses := .data (if s.status.busy then 0#32 else (s.bank x).getD i 0#32) :: s.responses }

/-- 20_memory.md R71: the effect of a write to each kind of mapped word, idle and busy; a refused write changes nothing except
`ACCERR <- 1`; every one is answered `OK`. -/
def Obligations.WritesOfTheWindow : Prop :=
  ∀ (s : State) (v : Word), s.Inv →
    (∀ off, off = 0x000#12 ∨ off = 0x004#12 ∨ (∃ i, isWordOffset s.k off .R i) ∨
        (s.status.busy = true ∧ (off = 0x008#12 ∨ ∃ x i, isWordOffset s.k off x i)) →
      step (s.withEvents [.write off 4 v]) =
        .next { s with status := { s.status with accerr := true }, responses := .ok :: s.responses }) ∧
    (s.status.busy = false → step (s.withEvents [.write 0x008#12 4 v]) = .next { s with
      cmdreg := v
      status := { s.status with
        busy := true, done := false, err := false, ecode := .none, ge := false, z := false }
      responses := .ok :: s.responses }) ∧
    step (s.withEvents [.write 0x00C#12 4 v]) = .next { s with
      status := { s.status with
        done := if v.getLsbD 1 then false else s.status.done
        accerr := if v.getLsbD 5 then false else s.status.accerr }
      responses := .ok :: s.responses } ∧
    step (s.withEvents [.write 0x010#12 4 v]) =
      .next { s with ie := v.getLsbD 0, responses := .ok :: s.responses } ∧
    (s.status.busy = false → ∀ (x : Bank) (i : Nat) (off : Offset), x ≠ .R → isWordOffset s.k off x i →
      step (s.withEvents [.write off 4 v]) =
        .next { s.setBank x ((s.bank x).set i v) with responses := .ok :: s.responses })

/-- 20_memory.md R78 (a) (derived there): a word written while idle is the value a later read returns, and every other operand
word keeps its value. -/
def Obligations.WrittenWordIsReadBack : Prop :=
  ∀ (s t : State) (x : Bank) (i : Nat) (off : Offset) (v : Word), s.Inv → s.status.busy = false → x ≠ .R →
    isWordOffset s.k off x i → step (s.withEvents [.write off 4 v]) = .next t →
    busRead t off 4 = .data v ∧
    ∀ (y : Bank) (j : Nat) (off' : Offset), isWordOffset s.k off' y j → off' ≠ off →
      busRead t off' 4 = busRead s off' 4

/-- 10_state.md R32: the layout of `STATUS` as read, a read of it, and a write of it: write-one-to-clear of bits 1 and 5, all else ignored, at
any time, never refused. -/
def Obligations.StatusLayoutAndWrite : Prop :=
  (∀ st : Status,
    st.word.getLsbD 0 = st.busy ∧ st.word.getLsbD 1 = st.done ∧ st.word.getLsbD 2 = st.err ∧
    st.word.getLsbD 3 = st.ge ∧ st.word.getLsbD 4 = st.z ∧ st.word.getLsbD 5 = st.accerr ∧
    st.word.extractLsb' 6 2 = 0#2 ∧ st.word.extractLsb' 8 4 = st.ecode.code ∧
    st.word.extractLsb' 12 20 = 0#20) ∧
  State.reset.status.word = 0#32 ∧
  (∀ s : State, step (s.withEvents [.read statusOffset 4]) =
    .next { s with responses := .data s.status.word :: s.responses }) ∧
  (∀ (s : State) (v : Word), ∃ t, step (s.withEvents [.write statusOffset 4 v]) = .next t ∧
    t = { s with status := t.status, responses := .ok :: s.responses } ∧
    t.status = { s.status with done := s.status.done && !v.getLsbD 1, accerr := s.status.accerr && !v.getLsbD 5 })

/-- 10_state.md R29 and R30: `ID` and `PARAM` never change, a write to them is refused, and `PARAM` has `K`, `VER = 1` and zeros in
its fields. -/
def Obligations.IdAndParamAreConstant : Prop :=
  (∀ s t : State, step s = .next t →
    busRead t 0x000#12 4 = .data 0x4D455850#32 ∧ busRead t 0x004#12 4 = busRead s 0x004#12 4) ∧
  (∀ (s : State) (v : Word) (off : Offset), off = 0x000#12 ∨ off = 0x004#12 →
    step (s.withEvents [.write off 4 v]) =
      .next { s with status := { s.status with accerr := true }, responses := .ok :: s.responses }) ∧
  (∀ s : State, s.Inv → ∃ w : Word, busRead s 0x004#12 4 = .data w ∧
    (w.extractLsb' 0 8).toNat = s.k ∧ w.extractLsb' 8 8 = 0x01#8 ∧ w.extractLsb' 16 16 = 0#16)

/-- While busy no read of the port depends on what the operand registers hold. Rests on 20_memory.md R70 and 10_state.md R47. -/
def Obligations.BusyReadsHideTheOperands : Prop :=
  ∀ (s s' : State) (off : Offset) (size : Nat), s.status.busy = true → s'.status = s.status → s'.k = s.k →
    s'.cmdreg = s.cmdreg → s'.ie = s.ie → busRead s' off size = busRead s off size

/- ======== whole-machine rules ======== -/

/-- The invariant of the engine's state holds after reset, for every legal `K`. Of the operand registers it asks only their
length, so it does not rest on the zeros of `State.reset` (log 5). Rests on 10_state.md R33, R35, R51 and 00_scope.md R8, R11. -/
def Obligations.ResetStateMeetsTheInvariant : Prop :=
  State.reset.Inv ∧ ∀ k, legalK k = true → (State.resetOf k).Inv

/-- Every step, of the host, the engine or a reset, keeps the invariant of the engine's state. Rests on 00_scope.md R8, R11 and
10_state.md R33, R35, R36, R37; 60_exceptions.md R200. -/
def Obligations.EveryStepKeepsTheInvariant : Prop :=
  ∀ s t : State, s.Inv → step s = .next t → t.Inv

/-- Persistence (10_state.md R52, R47; 60_exceptions.md R214): an operand register changes only by reset, by an idle host write to one of
its words, or by the completion of a command that writes it; `CMDREG` only by acceptance and reset; `IE` only by a `CTRL` write and reset. -/
def Obligations.RegistersPersist : Prop :=
  ∀ s t : State, step s = .next t →
    (∀ x, t.bank x ≠ s.bank x →
      s.schedule.head? = some .reset ∨
      (∃ off v i, s.schedule.head? = some (.write off 4 v) ∧ isWordOffset s.k off x i ∧
        s.status.busy = false ∧ x ≠ .R) ∨
      (s.engineTurn ∧ s.status.busy = true ∧ ∃ i, s.cmdreg = encode i ∧ writesBank i x = true)) ∧
    (t.cmdreg ≠ s.cmdreg →
      s.schedule.head? = some .reset ∨
      (s.status.busy = false ∧ s.schedule.head? = some (.write cmdOffset 4 t.cmdreg))) ∧
    (t.ie ≠ s.ie →
      s.schedule.head? = some .reset ∨
      ∃ v, s.schedule.head? = some (.write ctrlOffset 4 v) ∧ t.ie = v.getLsbD 0)

/-- Rests on 10_state.md R38: `ACCERR` is set by a refused write only, and cleared by a write of 1 to bit 5 of `STATUS` or by reset only. -/
def Obligations.AccerrRecordsRefusedWrites : Prop :=
  ∀ s t : State, step s = .next t →
    (s.status.accerr = false → t.status.accerr = true →
      ∃ off v l, s.schedule.head? = some (.write off 4 v) ∧ locate s.k off 4 = some l ∧
        (l = .id ∨ l = .param ∨ (l = .cmd ∧ s.status.busy = true) ∨
          ∃ x i, l = .operand x i ∧ (s.status.busy = true ∨ x = .R))) ∧
    (s.status.accerr = true → t.status.accerr = false →
      s.schedule.head? = some .reset ∨
      ∃ v, s.schedule.head? = some (.write statusOffset 4 v) ∧ v.getLsbD 5 = true)

/-- 10_state.md R34: every completion step sets `DONE` and nothing else does; a write of 1 to bit 1 of `STATUS`, acceptance and reset
clear it and nothing else does. -/
def Obligations.DoneRecordsCompletions : Prop :=
  ∀ s t : State, step s = .next t →
    (s.engineTurn → s.status.busy = true → t.status.done = true) ∧
    (s.status.done = false → t.status.done = true → s.engineTurn ∧ s.status.busy = true) ∧
    (s.status.done = true → t.status.done = false →
      s.schedule.head? = some .reset ∨
      (∃ v, s.schedule.head? = some (.write statusOffset 4 v) ∧ v.getLsbD 1 = true) ∨
      (∃ v, s.schedule.head? = some (.write cmdOffset 4 v) ∧ s.status.busy = false)) ∧
    (∀ v, s.schedule.head? = some (.write statusOffset 4 v) → v.getLsbD 1 = true → t.status.done = false) ∧
    (∀ v, s.schedule.head? = some (.write cmdOffset 4 v) → s.status.busy = false → t.status.done = false) ∧
    (s.schedule.head? = some .reset → t.status.done = false) ∧ t.irq = (t.status.done && t.ie)

/-- 60_exceptions.md R206: enable, pending and the ways in which `irq` falls; a read does not move it, nor does a step that
changes `STATUS` in `ACCERR` alone. -/
def Obligations.InterruptFollowsDoneAndEnable : Prop :=
  ∀ s t : State, step s = .next t →
    (s.engineTurn → s.status.busy = true → t.status.done = true ∧ t.irq = s.ie) ∧
    (∀ v, s.schedule.head? = some (.write ctrlOffset 4 v) →
      t.irq = (s.status.done && v.getLsbD 0) ∧ t.status.done = s.status.done) ∧
    (∀ v, s.schedule.head? = some (.write statusOffset 4 v) → v.getLsbD 1 = true → t.irq = false) ∧
    (∀ v, s.schedule.head? = some (.write cmdOffset 4 v) → s.status.busy = false → t.irq = false) ∧
    (s.schedule.head? = some .reset → t.ie = false ∧ t.irq = false) ∧
    (∀ off size, s.schedule.head? = some (.read off size) → t.irq = s.irq) ∧
    (t.status = { s.status with accerr := true } → t.ie = s.ie → t.irq = s.irq)

/-- What the spec gives of the state after reset (10_state.md R51), read through the port; nothing is said of the operand
registers, whose zeros in `State.reset` are the model's choice (log 5). -/
def Obligations.ResetStateReads : Prop :=
  (∀ k, legalK k = true → ∀ s, s = State.resetOf k →
    busRead s 0x000#12 4 = .data 0x4D455850#32 ∧ busRead s 0x004#12 4 = .data (BitVec.ofNat 32 (0x100 + k)) ∧
    busRead s 0x008#12 4 = .data 0#32 ∧ busRead s 0x00C#12 4 = .data 0#32 ∧ busRead s 0x010#12 4 = .data 0#32 ∧
    s.irq = false) ∧
  busRead State.reset 0x004#12 4 = .data 0x00000140#32

/-- Rests on 70_reset_and_hazards.md R231 (the control registers, the stable words) and R232: a reset, at any point and also while busy, clears the control registers, drops `irq` and
abandons the command, for every value the operand registers then hold; these have `K` words, and a word read twice is the same.
Besides the completion itself nothing else ends a command in flight. That the engine's turn after the reset is a step at all, one
that changes nothing, is the model's choice (log 3), as is the form of the free words (log 6). -/
def Obligations.ResetEventAbandonsAndClears : Prop :=
  (∀ (s t : State), step s = .next t → s.status.busy = true → t.status.busy = false →
    s.schedule.head? = some .reset ∨ s.engineTurn) ∧
  ∀ (s : State) (rest : List Event), s.schedule = .reset :: rest →
    ∃ t, step s = .next t ∧ t.cmdreg = 0#32 ∧ t.status = Status.clear ∧ t.ie = false ∧ t.irq = false ∧
      t.k = s.k ∧ (∀ x, (t.bank x).length = s.k) ∧ t.schedule = rest ∧
      (t.engineTurn → step t = .next t.turnTaken) ∧
      ∀ off size u, step (t.withEvents [.read off size]) = .next u → busRead u off size = busRead t off size

/-- 20_memory.md R78 (c) and 10_state.md R49 (derived there): whatever reads and writes the host makes while a command is in flight, the
completion gives the same operand registers and the same `STATUS` but for `ACCERR`. -/
def Obligations.HostCannotChangeTheCommandInFlight : Prop :=
  ∀ (s : State) (evs : List Event), s.Inv → s.status.busy = true → (∀ ev ∈ evs, isAccess ev = true) →
    ∃ u t t', runsTo evs.length (s.withEvents evs) u ∧ u.status.busy = true ∧
      executeCommand s = .next t ∧ executeCommand u = .next t' ∧ (∀ x, t'.bank x = t.bank x) ∧
      t'.cmdreg = t.cmdreg ∧ { t'.status with accerr := false } = { t.status with accerr := false }

/-- 20_memory.md R78 (b) (derived there): once idle, and until the host writes `CMD` or a reset comes, `R` keeps the result and no
completion step occurs; that a turn of the idle engine is an event which changes nothing is the model's choice (log 3). -/
def Obligations.ResultStaysUntilTheNextCommand : Prop :=
  ∀ (s : State) (evs : List Event), s.status.busy = false →
    (∀ ev ∈ evs, ev ≠ .reset ∧ ∀ v, ev ≠ .write cmdOffset 4 v) →
    ∃ u, runsTo evs.length (s.withEvents evs) u ∧ u.R = s.R ∧ u.status.busy = false ∧ u.cmdreg = s.cmdreg

/-- An enabled completion step is eventually taken: when the events still to come have happened, one more step leaves the engine
idle. That an empty schedule gives the engine its turn is how the model states fairness (log 2). Rests on 70_reset_and_hazards.md
R247 and 10_state.md R48. -/
def Obligations.EngineBecomesIdle : Prop :=
  ∀ s : State, ∃ t, runsTo (s.schedule.length + 1) s t ∧ t.status.busy = false ∧ t.schedule = []

/-- A refused or lost second command: the busy hazard (70_reset_and_hazards.md R240, R241): while busy, a `CMD` write followed by the
completion gives what the completion alone gives, with `ACCERR` set. -/
def Obligations.SecondCommandIsLost : Prop :=
  ∀ (s t : State) (v : Word), s.Inv → s.status.busy = true → executeCommand s = .next t →
    runsTo 2 (s.withEvents [.write cmdOffset 4 v, .completion])
      { t with status := { t.status with accerr := true }, responses := .ok :: s.responses }

/- ======== the host's side ======== -/

/-- `LOAD X, v` on an idle engine writes every word: the register's value becomes `v`, whatever it held, and no other register
changes. Rests on 30_encoding.md R99 and 70_reset_and_hazards.md R238. -/
def Obligations.LoadWritesTheWholeRegister : Prop :=
  ∀ (s : State) (polls : Nat) (x : Bank) (v : Nat), s.Inv → s.status.busy = false →
    (Stmt.load x v).wellFormed s.k = true →
    ∃ t, runsTo s.k (s.withEvents (stmtEvents s.k polls (.load x v))) t ∧ t.val x = v ∧
      t = { s.setBank x (t.bank x) with responses := List.replicate s.k .ok ++ s.responses }

/-- `READ X` on an idle engine shows the register's value and changes nothing but the answers given. Rests on 30_encoding.md R99
and 20_memory.md R70. -/
def Obligations.ReadShowsTheValue : Prop :=
  ∀ (s : State) (polls : Nat) (x : Bank), s.Inv → s.status.busy = false →
    ∃ rs : List Response, runsTo s.k (s.withEvents (stmtEvents s.k polls (.readBank x)))
        { s with responses := rs.reverse ++ s.responses } ∧
      rs.length = s.k ∧ valueRead rs = s.val x

/-- 48_host_rsa_flows.md R163 (derived there): integer to bytes and back is the identity; bytes to integer and back drops the leading
zero bytes. -/
def Obligations.ByteConversionsAreInverse : Prop :=
  (∀ m : Nat, bytesToInt (intToBytes m) = m) ∧
  (∀ bs : List Byte, intToBytes (bytesToInt bs) = bs.dropWhile (· == 0#8))

/-- The decimal conversions of 48_host_rsa_flows.md R164 and R165: a rendered integer parses to itself, has no leading zero but for
0 itself; the parser takes only non-empty strings of digits. -/
def Obligations.DecimalConversionsAgree : Prop :=
  (∀ c : Nat, parseDecimal (renderDecimal c) = .ok c ∧ ((renderDecimal c).head? = some '0' → c = 0)) ∧
  (∀ cs : List Char, (∃ c, parseDecimal cs = .ok c) ↔ cs ≠ [] ∧ ∀ ch ∈ cs, '0' ≤ ch ∧ ch ≤ '9')
end

