-- ==== Sys2Proof/Laws/Operands.lean ====
section
/-! SUPPORT. Laws of operand registers as integers and words. -/

namespace Sys2Proof.Machine

@[simp] theorem length_wordsOf (k v : Nat) : (wordsOf k v).length = k := by
  induction k generalizing v with
  | zero => rfl
  | succ k ih => simp [wordsOf, ih]

theorem valueOf_lt (ws : List Word) : valueOf ws < 2 ^ (32 * ws.length) := by
  induction ws with
  | nil => simp [valueOf]
  | cons w ws ih =>
    have hw := w.isLt
    have hp : 2 ^ (32 * (w :: ws).length) = 2 ^ 32 * 2 ^ (32 * ws.length) := by
      rw [← pow_add]
      congr 1
      simp
      ring
    rw [valueOf, hp]
    nlinarith

theorem valueOf_wordsOf_mod (k v : Nat) : valueOf (wordsOf k v) = v % 2 ^ (32 * k) := by
  induction k generalizing v with
  | zero => simp [wordsOf, valueOf, Nat.mod_one]
  | succ k ih =>
    have hp : 2 ^ (32 * (k + 1)) = 2 ^ 32 * 2 ^ (32 * k) := by
      rw [← pow_add]
      congr 1
      ring
    rw [wordsOf, valueOf, ih, hp, Nat.mod_mul, BitVec.toNat_ofNat]

theorem valueOf_wordsOf {k v : Nat} (h : v < 2 ^ (32 * k)) : valueOf (wordsOf k v) = v := by
  rw [valueOf_wordsOf_mod, Nat.mod_eq_of_lt h]

theorem wordsOf_valueOf (ws : List Word) : wordsOf ws.length (valueOf ws) = ws := by
  induction ws with
  | nil => rfl
  | cons w ws ih =>
    have hw := w.isLt
    have hd : (w.toNat + 2 ^ 32 * valueOf ws) / 2 ^ 32 = valueOf ws := by omega
    have hm : BitVec.ofNat 32 (w.toNat + 2 ^ 32 * valueOf ws) = w := by
      apply BitVec.eq_of_toNat_eq
      rw [BitVec.toNat_ofNat]
      omega
    rw [List.length_cons, valueOf, wordsOf, hd, hm, ih]

/-- Registers of the same number of words with the same value are equal. -/
theorem valueOf_inj {us ws : List Word} (hl : us.length = ws.length) (hv : valueOf us = valueOf ws) : us = ws := by
  rw [← wordsOf_valueOf us, ← wordsOf_valueOf ws, hl, hv]

theorem State.val_lt (s : State) (x : Bank) (h : (s.bank x).length = s.k) : s.val x < 2 ^ (32 * s.k) :=
  h ▸ valueOf_lt (s.bank x)

end Sys2Proof.Machine
end

