-- ==== Sys2Proof/Laws/State.lean ====
section
/-! SUPPORT. What each update of the state leaves in each field, so that no proof unfolds a record update. -/

namespace Sys2Proof.Machine

section Updates

variable (s : State)

@[simp] theorem State.finish_k : (s.finish).k = s.k := rfl
@[simp] theorem State.finish_N : (s.finish).N = s.N := rfl
@[simp] theorem State.finish_A : (s.finish).A = s.A := rfl
@[simp] theorem State.finish_B : (s.finish).B = s.B := rfl
@[simp] theorem State.finish_E : (s.finish).E = s.E := rfl
@[simp] theorem State.finish_R : (s.finish).R = s.R := rfl
@[simp] theorem State.finish_cmdreg : (s.finish).cmdreg = s.cmdreg := rfl
@[simp] theorem State.finish_status : (s.finish).status = s.status.finished := rfl
@[simp] theorem State.finish_ie : (s.finish).ie = s.ie := rfl
@[simp] theorem State.finish_resets : (s.finish).resets = s.resets := rfl
@[simp] theorem State.finish_schedule : (s.finish).schedule = s.schedule := rfl
@[simp] theorem State.finish_responses : (s.finish).responses = s.responses := rfl
@[simp] theorem State.finish_bank (x : Bank) : (s.finish).bank x = s.bank x := by cases x <;> rfl
@[simp] theorem State.finish_val (x : Bank) : (s.finish).val x = s.val x := by cases x <;> rfl

@[simp] theorem State.accept_k (v : Word) : (s.accept v).k = s.k := rfl
@[simp] theorem State.accept_N (v : Word) : (s.accept v).N = s.N := rfl
@[simp] theorem State.accept_A (v : Word) : (s.accept v).A = s.A := rfl
@[simp] theorem State.accept_B (v : Word) : (s.accept v).B = s.B := rfl
@[simp] theorem State.accept_E (v : Word) : (s.accept v).E = s.E := rfl
@[simp] theorem State.accept_R (v : Word) : (s.accept v).R = s.R := rfl
@[simp] theorem State.accept_cmdreg (v : Word) : (s.accept v).cmdreg = v := rfl
@[simp] theorem State.accept_status (v : Word) : (s.accept v).status = s.status.accepted := rfl
@[simp] theorem State.accept_ie (v : Word) : (s.accept v).ie = s.ie := rfl
@[simp] theorem State.accept_resets (v : Word) : (s.accept v).resets = s.resets := rfl
@[simp] theorem State.accept_schedule (v : Word) : (s.accept v).schedule = s.schedule := rfl
@[simp] theorem State.accept_responses (v : Word) : (s.accept v).responses = s.responses := rfl
@[simp] theorem State.accept_bank (v : Word) (x : Bank) : (s.accept v).bank x = s.bank x := by cases x <;> rfl
@[simp] theorem State.accept_val (v : Word) (x : Bank) : (s.accept v).val x = s.val x := by cases x <;> rfl

@[simp] theorem State.raiseError_k (c : ErrorCode) : (s.raiseError c).k = s.k := rfl
@[simp] theorem State.raiseError_N (c : ErrorCode) : (s.raiseError c).N = s.N := rfl
@[simp] theorem State.raiseError_A (c : ErrorCode) : (s.raiseError c).A = s.A := rfl
@[simp] theorem State.raiseError_B (c : ErrorCode) : (s.raiseError c).B = s.B := rfl
@[simp] theorem State.raiseError_E (c : ErrorCode) : (s.raiseError c).E = s.E := rfl
@[simp] theorem State.raiseError_R (c : ErrorCode) : (s.raiseError c).R = s.R := rfl
@[simp] theorem State.raiseError_cmdreg (c : ErrorCode) : (s.raiseError c).cmdreg = s.cmdreg := rfl
@[simp] theorem State.raiseError_status (c : ErrorCode) : (s.raiseError c).status = Status.finished { s.status with err := true, ecode := c } := rfl
@[simp] theorem State.raiseError_ie (c : ErrorCode) : (s.raiseError c).ie = s.ie := rfl
@[simp] theorem State.raiseError_resets (c : ErrorCode) : (s.raiseError c).resets = s.resets := rfl
@[simp] theorem State.raiseError_schedule (c : ErrorCode) : (s.raiseError c).schedule = s.schedule := rfl
@[simp] theorem State.raiseError_responses (c : ErrorCode) : (s.raiseError c).responses = s.responses := rfl
@[simp] theorem State.raiseError_bank (c : ErrorCode) (x : Bank) : (s.raiseError c).bank x = s.bank x := by cases x <;> rfl
@[simp] theorem State.raiseError_val (c : ErrorCode) (x : Bank) : (s.raiseError c).val x = s.val x := by cases x <;> rfl

@[simp] theorem State.writeStatus_k (v : Word) : (s.writeStatus v).k = s.k := rfl
@[simp] theorem State.writeStatus_N (v : Word) : (s.writeStatus v).N = s.N := rfl
@[simp] theorem State.writeStatus_A (v : Word) : (s.writeStatus v).A = s.A := rfl
@[simp] theorem State.writeStatus_B (v : Word) : (s.writeStatus v).B = s.B := rfl
@[simp] theorem State.writeStatus_E (v : Word) : (s.writeStatus v).E = s.E := rfl
@[simp] theorem State.writeStatus_R (v : Word) : (s.writeStatus v).R = s.R := rfl
@[simp] theorem State.writeStatus_cmdreg (v : Word) : (s.writeStatus v).cmdreg = s.cmdreg := rfl
@[simp] theorem State.writeStatus_status (v : Word) : (s.writeStatus v).status = s.status.writeOneToClear v := rfl
@[simp] theorem State.writeStatus_ie (v : Word) : (s.writeStatus v).ie = s.ie := rfl
@[simp] theorem State.writeStatus_resets (v : Word) : (s.writeStatus v).resets = s.resets := rfl
@[simp] theorem State.writeStatus_schedule (v : Word) : (s.writeStatus v).schedule = s.schedule := rfl
@[simp] theorem State.writeStatus_responses (v : Word) : (s.writeStatus v).responses = s.responses := rfl
@[simp] theorem State.writeStatus_bank (v : Word) (x : Bank) : (s.writeStatus v).bank x = s.bank x := by cases x <;> rfl
@[simp] theorem State.writeStatus_val (v : Word) (x : Bank) : (s.writeStatus v).val x = s.val x := by cases x <;> rfl

@[simp] theorem State.writeCtrl_k (v : Word) : (s.writeCtrl v).k = s.k := rfl
@[simp] theorem State.writeCtrl_N (v : Word) : (s.writeCtrl v).N = s.N := rfl
@[simp] theorem State.writeCtrl_A (v : Word) : (s.writeCtrl v).A = s.A := rfl
@[simp] theorem State.writeCtrl_B (v : Word) : (s.writeCtrl v).B = s.B := rfl
@[simp] theorem State.writeCtrl_E (v : Word) : (s.writeCtrl v).E = s.E := rfl
@[simp] theorem State.writeCtrl_R (v : Word) : (s.writeCtrl v).R = s.R := rfl
@[simp] theorem State.writeCtrl_cmdreg (v : Word) : (s.writeCtrl v).cmdreg = s.cmdreg := rfl
@[simp] theorem State.writeCtrl_status (v : Word) : (s.writeCtrl v).status = s.status := rfl
@[simp] theorem State.writeCtrl_ie (v : Word) : (s.writeCtrl v).ie = v.getLsbD 0 := rfl
@[simp] theorem State.writeCtrl_resets (v : Word) : (s.writeCtrl v).resets = s.resets := rfl
@[simp] theorem State.writeCtrl_schedule (v : Word) : (s.writeCtrl v).schedule = s.schedule := rfl
@[simp] theorem State.writeCtrl_responses (v : Word) : (s.writeCtrl v).responses = s.responses := rfl
@[simp] theorem State.writeCtrl_bank (v : Word) (x : Bank) : (s.writeCtrl v).bank x = s.bank x := by cases x <;> rfl
@[simp] theorem State.writeCtrl_val (v : Word) (x : Bank) : (s.writeCtrl v).val x = s.val x := by cases x <;> rfl

@[simp] theorem State.refuseWrite_k : (s.refuseWrite).k = s.k := rfl
@[simp] theorem State.refuseWrite_N : (s.refuseWrite).N = s.N := rfl
@[simp] theorem State.refuseWrite_A : (s.refuseWrite).A = s.A := rfl
@[simp] theorem State.refuseWrite_B : (s.refuseWrite).B = s.B := rfl
@[simp] theorem State.refuseWrite_E : (s.refuseWrite).E = s.E := rfl
@[simp] theorem State.refuseWrite_R : (s.refuseWrite).R = s.R := rfl
@[simp] theorem State.refuseWrite_cmdreg : (s.refuseWrite).cmdreg = s.cmdreg := rfl
@[simp] theorem State.refuseWrite_status : (s.refuseWrite).status = { s.status with accerr := true } := rfl
@[simp] theorem State.refuseWrite_ie : (s.refuseWrite).ie = s.ie := rfl
@[simp] theorem State.refuseWrite_resets : (s.refuseWrite).resets = s.resets := rfl
@[simp] theorem State.refuseWrite_schedule : (s.refuseWrite).schedule = s.schedule := rfl
@[simp] theorem State.refuseWrite_responses : (s.refuseWrite).responses = s.responses := rfl
@[simp] theorem State.refuseWrite_bank (x : Bank) : (s.refuseWrite).bank x = s.bank x := by cases x <;> rfl
@[simp] theorem State.refuseWrite_val (x : Bank) : (s.refuseWrite).val x = s.val x := by cases x <;> rfl

@[simp] theorem State.respond_k (r : Response) : (s.respond r).k = s.k := rfl
@[simp] theorem State.respond_N (r : Response) : (s.respond r).N = s.N := rfl
@[simp] theorem State.respond_A (r : Response) : (s.respond r).A = s.A := rfl
@[simp] theorem State.respond_B (r : Response) : (s.respond r).B = s.B := rfl
@[simp] theorem State.respond_E (r : Response) : (s.respond r).E = s.E := rfl
@[simp] theorem State.respond_R (r : Response) : (s.respond r).R = s.R := rfl
@[simp] theorem State.respond_cmdreg (r : Response) : (s.respond r).cmdreg = s.cmdreg := rfl
@[simp] theorem State.respond_status (r : Response) : (s.respond r).status = s.status := rfl
@[simp] theorem State.respond_ie (r : Response) : (s.respond r).ie = s.ie := rfl
@[simp] theorem State.respond_resets (r : Response) : (s.respond r).resets = s.resets := rfl
@[simp] theorem State.respond_schedule (r : Response) : (s.respond r).schedule = s.schedule := rfl
@[simp] theorem State.respond_responses (r : Response) : (s.respond r).responses = r :: s.responses := rfl
@[simp] theorem State.respond_bank (r : Response) (x : Bank) : (s.respond r).bank x = s.bank x := by cases x <;> rfl
@[simp] theorem State.respond_val (r : Response) (x : Bank) : (s.respond r).val x = s.val x := by cases x <;> rfl

@[simp] theorem applyReset_k : (applyReset s).k = s.k := rfl
@[simp] theorem applyReset_N : (applyReset s).N = resetBank s .N := rfl
@[simp] theorem applyReset_A : (applyReset s).A = resetBank s .A := rfl
@[simp] theorem applyReset_B : (applyReset s).B = resetBank s .B := rfl
@[simp] theorem applyReset_E : (applyReset s).E = resetBank s .E := rfl
@[simp] theorem applyReset_R : (applyReset s).R = resetBank s .R := rfl
@[simp] theorem applyReset_cmdreg : (applyReset s).cmdreg = 0x00000000#32 := rfl
@[simp] theorem applyReset_status : (applyReset s).status = Status.clear := rfl
@[simp] theorem applyReset_ie : (applyReset s).ie = false := rfl
@[simp] theorem applyReset_resets : (applyReset s).resets = s.resets + 1 := rfl
@[simp] theorem applyReset_schedule : (applyReset s).schedule = s.schedule := rfl
@[simp] theorem applyReset_responses : (applyReset s).responses = s.responses := rfl
@[simp] theorem applyReset_bank (x : Bank) : (applyReset s).bank x = resetBank s x := by cases x <;> rfl

@[simp] theorem State.setBank_k (x : Bank) (ws : List Word) : (s.setBank x ws).k = s.k := by cases x <;> rfl
@[simp] theorem State.setBank_cmdreg (x : Bank) (ws : List Word) : (s.setBank x ws).cmdreg = s.cmdreg := by cases x <;> rfl
@[simp] theorem State.setBank_status (x : Bank) (ws : List Word) : (s.setBank x ws).status = s.status := by cases x <;> rfl
@[simp] theorem State.setBank_ie (x : Bank) (ws : List Word) : (s.setBank x ws).ie = s.ie := by cases x <;> rfl
@[simp] theorem State.setBank_resets (x : Bank) (ws : List Word) : (s.setBank x ws).resets = s.resets := by cases x <;> rfl
@[simp] theorem State.setBank_schedule (x : Bank) (ws : List Word) : (s.setBank x ws).schedule = s.schedule := by cases x <;> rfl
@[simp] theorem State.setBank_responses (x : Bank) (ws : List Word) : (s.setBank x ws).responses = s.responses := by cases x <;> rfl
@[simp] theorem State.setBank_bank (x : Bank) (ws : List Word) : (s.setBank x ws).bank x = ws := by cases x <;> rfl
theorem State.setBank_bank_ne (x y : Bank) (ws : List Word) (h : y ≠ x) : (s.setBank x ws).bank y = s.bank y := by
  cases x <;> cases y <;> first | rfl | exact absurd rfl h
theorem State.setBank_val (x : Bank) (ws : List Word) : (s.setBank x ws).val x = valueOf ws := by
  simp [State.val]
theorem State.setBank_val_ne (x y : Bank) (ws : List Word) (h : y ≠ x) : (s.setBank x ws).val y = s.val y := by
  simp [State.val, State.setBank_bank_ne _ _ _ _ h]

@[simp] theorem State.setWord_k (x : Bank) (i : Nat) (v : Word) : (s.setWord x i v).k = s.k := by cases x <;> rfl
@[simp] theorem State.setWord_cmdreg (x : Bank) (i : Nat) (v : Word) : (s.setWord x i v).cmdreg = s.cmdreg := by cases x <;> rfl
@[simp] theorem State.setWord_status (x : Bank) (i : Nat) (v : Word) : (s.setWord x i v).status = s.status := by cases x <;> rfl
@[simp] theorem State.setWord_ie (x : Bank) (i : Nat) (v : Word) : (s.setWord x i v).ie = s.ie := by cases x <;> rfl
@[simp] theorem State.setWord_resets (x : Bank) (i : Nat) (v : Word) : (s.setWord x i v).resets = s.resets := by cases x <;> rfl
@[simp] theorem State.setWord_schedule (x : Bank) (i : Nat) (v : Word) : (s.setWord x i v).schedule = s.schedule := by cases x <;> rfl
@[simp] theorem State.setWord_responses (x : Bank) (i : Nat) (v : Word) : (s.setWord x i v).responses = s.responses := by cases x <;> rfl

@[simp] theorem State.setVal_k (x : Bank) (v : Nat) : (s.setVal x v).k = s.k := by cases x <;> rfl
@[simp] theorem State.setVal_cmdreg (x : Bank) (v : Nat) : (s.setVal x v).cmdreg = s.cmdreg := by cases x <;> rfl
@[simp] theorem State.setVal_status (x : Bank) (v : Nat) : (s.setVal x v).status = s.status := by cases x <;> rfl
@[simp] theorem State.setVal_ie (x : Bank) (v : Nat) : (s.setVal x v).ie = s.ie := by cases x <;> rfl
@[simp] theorem State.setVal_resets (x : Bank) (v : Nat) : (s.setVal x v).resets = s.resets := by cases x <;> rfl
@[simp] theorem State.setVal_schedule (x : Bank) (v : Nat) : (s.setVal x v).schedule = s.schedule := by cases x <;> rfl
@[simp] theorem State.setVal_responses (x : Bank) (v : Nat) : (s.setVal x v).responses = s.responses := by cases x <;> rfl

@[simp] theorem State.clearBanks_k : s.clearBanks.k = s.k := rfl
@[simp] theorem State.clearBanks_cmdreg : s.clearBanks.cmdreg = s.cmdreg := rfl
@[simp] theorem State.clearBanks_status : s.clearBanks.status = s.status := rfl
@[simp] theorem State.clearBanks_ie : s.clearBanks.ie = s.ie := rfl
@[simp] theorem State.clearBanks_resets : s.clearBanks.resets = s.resets := rfl
@[simp] theorem State.clearBanks_schedule : s.clearBanks.schedule = s.schedule := rfl
@[simp] theorem State.clearBanks_responses : s.clearBanks.responses = s.responses := rfl
@[simp] theorem State.clearBanks_bank (x : Bank) : s.clearBanks.bank x = wordsOf s.k 0 := by cases x <;> rfl

@[simp] theorem State.writeResult_k (r : Nat) (ge : Bool) : (s.writeResult r ge).k = s.k := rfl
@[simp] theorem State.writeResult_N (r : Nat) (ge : Bool) : (s.writeResult r ge).N = s.N := rfl
@[simp] theorem State.writeResult_A (r : Nat) (ge : Bool) : (s.writeResult r ge).A = s.A := rfl
@[simp] theorem State.writeResult_B (r : Nat) (ge : Bool) : (s.writeResult r ge).B = s.B := rfl
@[simp] theorem State.writeResult_E (r : Nat) (ge : Bool) : (s.writeResult r ge).E = s.E := rfl
@[simp] theorem State.writeResult_R (r : Nat) (ge : Bool) : (s.writeResult r ge).R = wordsOf s.k r := rfl
@[simp] theorem State.writeResult_cmdreg (r : Nat) (ge : Bool) : (s.writeResult r ge).cmdreg = s.cmdreg := rfl
@[simp] theorem State.writeResult_status (r : Nat) (ge : Bool) : (s.writeResult r ge).status = { s.status with ge := ge, z := zOf r } := rfl
@[simp] theorem State.writeResult_ie (r : Nat) (ge : Bool) : (s.writeResult r ge).ie = s.ie := rfl
@[simp] theorem State.writeResult_resets (r : Nat) (ge : Bool) : (s.writeResult r ge).resets = s.resets := rfl
@[simp] theorem State.writeResult_schedule (r : Nat) (ge : Bool) : (s.writeResult r ge).schedule = s.schedule := rfl
@[simp] theorem State.writeResult_responses (r : Nat) (ge : Bool) : (s.writeResult r ge).responses = s.responses := rfl

end Updates

end Sys2Proof.Machine
end

