-- ==== Sys2Proof/Laws/Ops.lean ====
section
/-! SUPPORT. One lemma per shared operation that says once what it can do. -/

namespace Sys2Proof.Machine

theorem State.arithmetic_of_zero {s : State} (h : s.val .N = 0) (r : Nat) (ge : Bool) :
    s.arithmetic r ge = s.raiseError .modZero := if_pos h

theorem State.arithmetic_of_ne {s : State} (h : s.val .N ≠ 0) (r : Nat) (ge : Bool) :
    s.arithmetic r ge = (s.writeResult r ge).finish := if_neg h

/-- An arithmetic command either enters the error `MOD_ZERO` or writes its result and finishes. -/
theorem State.arithmetic_cases (s : State) (r : Nat) (ge : Bool) :
    (s.val .N = 0 ∧ s.arithmetic r ge = s.raiseError .modZero) ∨
      (s.val .N ≠ 0 ∧ s.arithmetic r ge = (s.writeResult r ge).finish) := by
  by_cases h : s.val .N = 0
  · exact .inl ⟨h, arithmetic_of_zero h r ge⟩
  · exact .inr ⟨h, arithmetic_of_ne h r ge⟩

/-- `ERR`, `ECODE` and the end of the completion step are all that the error entry changes. -/
theorem State.raiseError_eq (s : State) (c : ErrorCode) :
    s.raiseError c =
      { s with status := { s.status with err := true, ecode := c, busy := false, done := true } } := rfl

theorem State.accept_eq (s : State) (v : Word) :
    s.accept v =
      { s with
        cmdreg := v
        status := { s.status with
          busy := true, done := false, err := false, ecode := .none, ge := false, z := false } } := rfl

/-- A write to a mapped word is refused, or an acceptance, or a write of `STATUS`, `CTRL` or one operand word. -/
theorem writeLocation_cases (s : State) (v : Word) (l : Location) :
    writeLocation s v l = s.refuseWrite ∨
      (s.status.busy = false ∧ l = .cmd ∧ writeLocation s v l = s.accept v) ∨
      (l = .status ∧ writeLocation s v l = s.writeStatus v) ∨
      (l = .ctrl ∧ writeLocation s v l = s.writeCtrl v) ∨
      ∃ x i, s.status.busy = false ∧ x.hostWritable = true ∧ l = .operand x i ∧
        writeLocation s v l = s.setWord x i v := by
  cases l with
  | id => exact .inl rfl
  | param => exact .inl rfl
  | cmd => cases hb : s.status.busy <;> simp [writeLocation, hb]
  | status => simp [writeLocation]
  | ctrl => simp [writeLocation]
  | operand x i =>
    cases hb : s.status.busy <;> cases hx : x.hostWritable <;> simp [writeLocation, hb, hx]

/-- A host write gets `ERROR` and changes nothing, or is a write to the mapped word it is at. -/
theorem busWrite_cases (s : State) (off : Offset) (size : Nat) (v : Word) :
    (locate s.k off size = none ∧ busWrite s off size v = s ∧ busWriteResponse s off size = .error) ∨
      ∃ l, locate s.k off size = some l ∧ busWrite s off size v = writeLocation s v l ∧
        busWriteResponse s off size = .ok := by
  cases h : locate s.k off size <;> simp [busWrite, busWriteResponse, h]

/-- `CMDREG` holds a command, which is run, or an illegal word, which ends in `ILLEGAL_CMD`. -/
theorem executeCommand_cases (s : State) :
    (∃ i, decode s.cmdreg = .ok i ∧ executeCommand s = exec i s) ∨
      (∃ e, decode s.cmdreg = .error e ∧ executeCommand s = .next (s.raiseError .illegalCmd)) := by
  cases h : decode s.cmdreg <;> simp [executeCommand, h]

/-- What a step can do: the engine's turn (the schedule is empty or says so), a host access, or a reset. -/
theorem step_cases (s : State) :
    ((s.schedule = [] ∨ ∃ rest, s.schedule = .completion :: rest) ∧
        step s = completionTurn { s with schedule := s.schedule.tail }) ∨
      (∃ off size rest, s.schedule = .read off size :: rest ∧
        step s = .next (({ s with schedule := rest } : State).respond
          (busRead { s with schedule := rest } off size))) ∨
      (∃ off size v rest, s.schedule = .write off size v :: rest ∧
        step s = .next ((busWrite { s with schedule := rest } off size v).respond
          (busWriteResponse { s with schedule := rest } off size))) ∨
      (∃ rest, s.schedule = .reset :: rest ∧ step s = .next (applyReset { s with schedule := rest })) := by
  match h : s.schedule with
  | [] =>
    refine .inl ⟨.inl rfl, ?_⟩
    simp only [step, h, List.tail_nil]
    rw [← h]
  | .completion :: rest => exact .inl ⟨.inr ⟨rest, rfl⟩, by simp [step, h, takeEvent]⟩
  | .read off size :: rest => exact .inr (.inl ⟨off, size, rest, rfl, by simp [step, h, takeEvent]⟩)
  | .write off size v :: rest =>
    exact .inr (.inr (.inl ⟨off, size, v, rest, rfl, by simp [step, h, takeEvent]⟩))
  | .reset :: rest => exact .inr (.inr (.inr ⟨rest, rfl, by simp [step, h, takeEvent]⟩))

/-- No write of the port changes how many words a register has. -/
theorem State.length_setWord_bank (s : State) (x y : Bank) (i : Nat) (v : Word) :
    ((s.setWord x i v).bank y).length = (s.bank y).length := by
  by_cases h : y = x
  · subst h
    simp [State.setWord]
  · simp [State.setWord, State.setBank_bank_ne _ _ _ _ h]

theorem writeLocation_bankLength (s : State) (v : Word) (l : Location) (y : Bank) :
    ((writeLocation s v l).bank y).length = (s.bank y).length := by
  obtain h | ⟨-, -, h⟩ | ⟨-, h⟩ | ⟨-, h⟩ | ⟨x, i, -, -, -, h⟩ := writeLocation_cases s v l <;> rw [h]
  · simp
  · simp
  · simp
  · simp
  · exact State.length_setWord_bank s x y i v

/-- A run of no step. -/
theorem runsTo_zero (s : State) : runsTo 0 s s := rfl

/-- A run begins with its first step. -/
theorem runsTo_succ {k : Nat} {s t u : State} (h : step s = .next t) (h' : runsTo k t u) : runsTo (k + 1) s u := by
  unfold runsTo at h' ⊢
  rw [← h']
  simp only [Host.Core.run]
  rw [show Sys2Proof.core.step s = .next t from h]

end Sys2Proof.Machine
end

