-- ==== Sys2Proof/Laws/PerInstr.lean ====
section
/-! SUPPORT. Per-command laws about commands as syntax. -/

namespace Sys2Proof.Laws.EncodingForm

/-- The word of a command is in format C: bits 31:8 clear and the opcode one of the map (30_encoding.md R91, R94). -/
def Statement (i : Instr) : Prop := (formatOf (encode i)).wellFormed = true

theorem nop : Statement .nop := by unfold Statement; decide
theorem modexp : Statement .modexp := by unfold Statement; decide
theorem modmul : Statement .modmul := by unfold Statement; decide
theorem modsqr : Statement .modsqr := by unfold Statement; decide
theorem modred : Statement .modred := by unfold Statement; decide
theorem movra : Statement .movra := by unfold Statement; decide
theorem movrb : Statement .movrb := by unfold Statement; decide
theorem clr : Statement .clr := by unfold Statement; decide

end Sys2Proof.Laws.EncodingForm
end

