-- ==== Sys2Proof/Tests/Slice0.lean ====
section
/-! SUPPORT. Tests of the model's definitions, every expected value from spec/ (the vector's name in 95_test_vectors.md, or the
rule), and for each statement with hypotheses a witness that meets them. -/

namespace Sys2Proof.Tests

open Sys2Proof.Machine

/- ======== decoding: each word written from the encoding of 30_encoding.md R94 ======== -/

theorem test_decode_nop : decode (0#24 ++ 0b00000000#8) = .ok .nop := by decide
theorem test_decode_modexp : decode (0#24 ++ 0b00000001#8) = .ok .modexp := by decide
theorem test_decode_modmul : decode (0#24 ++ 0b00000010#8) = .ok .modmul := by decide
theorem test_decode_modsqr : decode (0#24 ++ 0b00000011#8) = .ok .modsqr := by decide
theorem test_decode_modred : decode (0#24 ++ 0b00000100#8) = .ok .modred := by decide
theorem test_decode_movra : decode (0#24 ++ 0b00000101#8) = .ok .movra := by decide
theorem test_decode_movrb : decode (0#24 ++ 0b00000110#8) = .ok .movrb := by decide
theorem test_decode_clr : decode (0#24 ++ 0b00000111#8) = .ok .clr := by decide

/-- V40 to V44. -/
theorem test_decode_illegal :
    decode 0x00000008#32 = .error .opcodeUnassigned ∧ decode 0x000000FF#32 = .error .opcodeUnassigned ∧
    decode 0x00000100#32 = .error .upperBitsSet ∧ decode 0x80000001#32 = .error .upperBitsSet ∧
    decode 0xFFFFFFFF#32 = .error .upperBitsSet := by decide

/-- R90: a command word has four bytes, lowest first; what follows is left. -/
theorem test_decode_bytes :
    decodeBytes [0x04#8, 0x00#8, 0x00#8, 0x00#8, 0xAA#8] = .ok (.modred, [0xAA#8]) ∧
    decodeBytes [0x00#8, 0x00#8, 0x00#8, 0x04#8] = .error .upperBitsSet ∧
    decodeBytes [0x04#8, 0x00#8, 0x00#8] = .error .truncated := by decide

theorem test_decodeTableWord :
    decodeTableWord 32 7 = some .clr ∧ decodeTableWord 8 7 = some .clr ∧ decodeTableWord 32 8 = none := by decide

/- ======== well-formedness refuses ======== -/

theorem test_format_zero_field_refused : ({ zero := 1#24, opcode := 0x01#8 } : FormatC).wellFormed = false := by decide
theorem test_format_opcode_refused : ({ zero := 0#24, opcode := 0x08#8 } : FormatC).wellFormed = false := by decide
theorem test_k_refused : legalK 0 = false ∧ legalK 129 = false ∧ legalK 1 = true ∧ legalK 128 = true := by decide
theorem test_load_R_refused : (Stmt.load .R 0).wellFormed 2 = false := by decide
theorem test_load_wide_refused : (Stmt.load .A (2 ^ 64)).wellFormed 2 = false := by decide

/- ======== states ======== -/

/-- An idle engine of `NBITS = 64` with these values in `N`, `A`, `B`, `E`, `R`. -/
def small (n a b e r : Nat) : State :=
  { State.resetOf 2 with N := wordsOf 2 n, A := wordsOf 2 a, B := wordsOf 2 b, E := wordsOf 2 e, R := wordsOf 2 r }

/-- The same engine with a command word accepted. -/
def busyWith (w : Word) (n a b e r : Nat) : State := (small n a b e r).accept w

/-- The state after one step, or the state itself where it stops. -/
def after (s : State) : State :=
  match step s with
  | .next t => t
  | .fault _ => s
  | .refused _ => s

/-- The state after so many steps. -/
def afterSteps : Nat → State → State
  | 0, s => s
  | k + 1, s => afterSteps k (after s)

theorem small_inv (n a b e r : Nat) : (small n a b e r).Inv where
  kLegal := ⟨show 1 ≤ 2 by decide, show 2 ≤ 128 by decide⟩
  bankLength x := by cases x <;> rfl
  errIffCode := ⟨fun h => (by cases h), fun h => absurd rfl h⟩
  busyClear h := by cases h
  errClear h := by cases h
  zResult h := by cases h
  illegalCause h := by cases h
  modZeroCause h := by cases h
  warnCause h := by rcases h with h | h <;> cases h

theorem busyWith_inv (w : Word) (n a b e r : Nat) : (busyWith w n a b e r).Inv where
  kLegal := ⟨show 1 ≤ 2 by decide, show 2 ≤ 128 by decide⟩
  bankLength x := by cases x <;> rfl
  errIffCode := ⟨fun h => (by cases h), fun h => absurd rfl h⟩
  busyClear _ := ⟨rfl, rfl, rfl, rfl⟩
  errClear h := by cases h
  zResult h := by cases h
  illegalCause h := by cases h
  modZeroCause h := by cases h
  warnCause h := by rcases h with h | h <;> cases h

/-- The invariant speaks of no event still to come. -/
theorem withEvents_inv {s : State} (h : s.Inv) (evs : List Event) : (s.withEvents evs).Inv where
  kLegal := h.kLegal
  bankLength x := by cases x <;> [exact h.bankLength .N; exact h.bankLength .A; exact h.bankLength .B; exact h.bankLength .E; exact h.bankLength .R]
  errIffCode := h.errIffCode
  busyClear := h.busyClear
  errClear := h.errClear
  zResult := h.zResult
  illegalCause := h.illegalCause
  modZeroCause := h.modZeroCause
  warnCause := h.warnCause

/-- What a command leaves: `val(R)` and `STATUS`. -/
def resultOf (s : State) : Nat × Word := (s.val .R, s.status.word)

/- ======== the commands ======== -/

/-- V1. -/
theorem test_modexp_encrypts_A : resultOf (after (busyWith 0x1#32 60491 65 0 131 0)) = (29073, 0x002#32) := by
  decide +kernel
/-- V10a: every bit of every operand is used. -/
theorem test_modexp_full_width :
    resultOf (after (busyWith 0x1#32 0xFFFFFFFFFFFFFFC5 (2 ^ 64 - 1) 0 (2 ^ 64 - 1) 0)) = (0x44D4C86A1C084F2C, 0x00A#32) := by
  decide +kernel
/-- V14. -/
theorem test_modmul : resultOf (after (busyWith 0x2#32 60491 1234 5678 0 0)) = (50187, 0x002#32) := by decide +kernel
/-- V19: `GE` from the second factor. -/
theorem test_modmul_ge_of_B : resultOf (after (busyWith 0x2#32 60491 1 70000 0 0)) = (9509, 0x00A#32) := by decide +kernel
/-- V21; `B` is not read. -/
theorem test_modsqr : resultOf (after (busyWith 0x3#32 60491 29073 70000 0 0)) = (59077, 0x002#32) := by decide +kernel
/-- V22. -/
theorem test_modsqr_zero : resultOf (after (busyWith 0x3#32 12 6 0 0 0)) = (0, 0x012#32) := by decide +kernel
/-- V24. -/
theorem test_modred : resultOf (after (busyWith 0x4#32 60491 100000 0 0 0)) = (39509, 0x00A#32) := by decide +kernel
/-- V25. -/
theorem test_modred_equal : resultOf (after (busyWith 0x4#32 60491 60491 0 0 7)) = (0, 0x01A#32) := by decide +kernel
/-- V31: nothing but the flags changes. -/
theorem test_nop :
    after (busyWith 0x0#32 60491 65 7 131 29073) =
      { small 60491 65 7 131 29073 with status := { Status.clear with done := true } } := by decide +kernel
/-- V35: acceptance clears `Z`. -/
theorem test_nop_renews_flags :
    let s := { small 60491 65 7 131 0 with status := { Status.clear with done := true, z := true } }
    s.status.word = 0x012#32 ∧ (s.accept 0x0#32).status.word = 0x001#32 ∧
      (after (s.accept 0x0#32)).status.word = 0x002#32 := by decide +kernel
/-- V32. -/
theorem test_movra :
    let t := after (busyWith 0x5#32 60491 65 7 131 29073)
    (t.val .A, t.val .B, t.val .R, t.status.word) = (29073, 7, 29073, 0x002#32) := by decide +kernel
/-- V36 and V37: no `Z` for a move, no test of `N`. -/
theorem test_movra_zero : (after (busyWith 0x5#32 0 65 7 131 0)).status.word = 0x002#32 := by decide +kernel
/-- V33. -/
theorem test_movrb :
    let t := after (busyWith 0x6#32 60491 65 7 131 29073)
    (t.val .A, t.val .B, t.val .R, t.status.word) = (65, 29073, 29073, 0x002#32) := by decide +kernel
/-- V34. -/
theorem test_clr :
    let t := after (busyWith 0x7#32 60491 65 7 131 29073)
    (t.val .N, t.val .A, t.val .B, t.val .E, resultOf t) = (0, 0, 0, 0, 0, 0x002#32) := by decide +kernel
/-- V8, V20: `MOD_ZERO`, and `R` keeps its value. -/
theorem test_mod_zero :
    resultOf (after (busyWith 0x1#32 0 65 0 131 9)) = (9, 0x206#32) ∧
    resultOf (after (busyWith 0x2#32 0 1234 5678 0 9)) = (9, 0x206#32) := by decide +kernel
/-- V40, V45: `ILLEGAL_CMD`, decided before the modulus. -/
theorem test_illegal_command :
    resultOf (after (busyWith 0x8#32 60491 65 0 131 9)) = (9, 0x106#32) ∧
    resultOf (after (busyWith 0x108#32 0 65 0 131 9)) = (9, 0x106#32) ∧
    (after (busyWith 0x108#32 0 65 0 131 9)).cmdreg = 0x108#32 := by decide +kernel
/-- V10a's words (20_memory.md R64). -/
theorem test_words_of_a_value : wordsOf 2 0x44D4C86A1C084F2C = [0x1C084F2C#32, 0x44D4C86A#32] := by decide

/- ======== the slave port ======== -/

/-- The answers to some accesses, oldest first. -/
def answers (s : State) (evs : List Event) : List Response :=
  (afterSteps evs.length (s.withEvents evs)).responses.reverse

/-- A1, A2, A3. -/
theorem test_control_reads :
    answers (State.resetOf 2) [.read 0x000#12 4, .read 0x004#12 4, .read 0x008#12 4, .read 0x00C#12 4, .read 0x010#12 4] =
      [.data 0x4D455850#32, .data 0x00000102#32, .data 0#32, .data 0#32, .data 0#32] := by decide +kernel
/-- A5. -/
theorem test_operand_write :
    let t := afterSteps 1 ((small 1 2 3 4 5).withEvents [.write 0x404#12 4 0x12345678#32])
    t.A = [2#32, 0x12345678#32] ∧ busRead t 0x404#12 4 = .data 0x12345678#32 := by decide +kernel
/-- A6 to A8: refused writes. -/
theorem test_refused_writes :
    let t := afterSteps 3 ((small 1 2 3 4 5).withEvents [.write 0x000#12 4 9#32, .write 0x004#12 4 9#32, .write 0xA00#12 4 9#32])
    let u := afterSteps 2 ((busyWith 0x1#32 1 2 3 4 5).withEvents [.write 0x200#12 4 9#32, .write 0x008#12 4 7#32])
    t.status.word = 0x020#32 ∧ t.R = [5#32, 0#32] ∧ t.responses = [.ok, .ok, .ok] ∧
      u.status.word = 0x021#32 ∧ u.N = [1#32, 0#32] ∧ u.cmdreg = 0x1#32 := by decide +kernel
/-- A9, A10: reads while busy. -/
theorem test_busy_reads :
    answers (busyWith 0x4#32 1 2 3 4 5) [.read 0x200#12 4, .read 0xA00#12 4, .read 0x008#12 4] =
      [.data 0#32, .data 0#32, .data 0x4#32] := by decide +kernel
/-- A12, A13: `ERROR`, also to writes, and no state change. -/
theorem test_error_accesses :
    let evs : List Event := [.read 0x014#12 4, .read 0x1FC#12 4, .read 0x208#12 4, .read 0x3FC#12 4, .read 0xC00#12 4, .write 0xFFC#12 4 9#32,
      .read 0x002#12 4, .read 0x401#12 4, .read 0x400#12 1, .write 0x400#12 2 9#32, .read 0x400#12 8]
    afterSteps evs.length ((small 1 2 3 4 5).withEvents evs) =
      { small 1 2 3 4 5 with responses := List.replicate 11 .error } := by decide +kernel
/-- A14. -/
theorem test_full_slot : locate 128 0x3FC#12 4 = some (.operand .N 127) := by decide
/-- A15 to A19: write one to clear. -/
theorem test_write_one_to_clear :
    let st : Status := { Status.clear with done := true, accerr := true }
    let er : Status := { Status.clear with done := true, err := true, ecode := .modZero }
    let fl : Status := { Status.clear with done := true, ge := true, z := true }
    st.word = 0x22#32 ∧ (st.writeOneToClear 0x2#32).word = 0x20#32 ∧ (st.writeOneToClear 0x20#32).word = 0x02#32 ∧
      (st.writeOneToClear 0xFFFFFFDD#32).word = 0x22#32 ∧ er.word = 0x206#32 ∧
      (er.writeOneToClear 0xFFFFFFFF#32).word = 0x204#32 ∧ (fl.writeOneToClear 0x2#32).word = 0x18#32 := by decide
/-- A20, A21. -/
theorem test_ctrl :
    answers (small 1 2 3 4 5) [.write 0x010#12 4 0xFFFFFFFF#32, .read 0x010#12 4, .write 0x010#12 4 0xFFFFFFFE#32, .read 0x010#12 4] =
      [.ok, .data 1#32, .ok, .data 0#32] := by decide +kernel
/-- I3, I4: a completion that happened while disabled asserts `irq` at once. -/
theorem test_irq :
    let s := after (busyWith 0x0#32 1 2 3 4 5)
    let t := afterSteps 1 (s.withEvents [.write 0x010#12 4 1#32])
    let u := afterSteps 1 (t.withEvents [.write 0x00C#12 4 2#32])
    s.irq = false ∧ t.irq = true ∧ u.irq = false := by decide +kernel
/-- Z1, Z2: reset, also while busy; nothing is said of the operand registers. -/
theorem test_reset_event :
    let t := after ((busyWith 0x1#32 1 2 3 4 5).withEvents [.reset])
    t.status = Status.clear ∧ t.cmdreg = 0#32 ∧ t.ie = false ∧ t.R.length = 2 := ⟨rfl, rfl, rfl, rfl⟩

/- ======== the host's side ======== -/

/-- H1, H2, H5, H9. -/
theorem test_bytes_and_integers :
    bytesToInt [0x41#8] = 65 ∧ wordsOf 2 (bytesToInt [0x48#8, 0x65#8, 0x6C#8, 0x6C#8, 0x6F#8]) = [0x656C6C6F#32, 0x00000048#32] ∧
      bytesToInt [0x00#8, 0x41#8] = 65 ∧ intToBytes 65 = [0x41#8] ∧ intToBytes 0 = [] := by decide +kernel
/-- H6, H7, H8. -/
theorem test_decimal_strings :
    renderDecimal 29073 = "29073".toList ∧ renderDecimal 0 = "0".toList ∧ parseDecimal "29O73".toList = .error .invalidInput ∧
      parseDecimal "-5".toList = .error .invalidInput ∧ parseDecimal [] = .error .invalidInput ∧
      parseDecimal "12 3".toList = .error .invalidInput ∧ parseDecimal "00029073".toList = .ok 29073 := by decide +kernel
/-- S6. -/
theorem test_generate_validates :
    validateBits 15 = .error .invalidInput ∧ validateBits 0 = .error .invalidInput ∧ validateBits (-2) = .error .invalidInput ∧
      validateBits 16 = .ok 16 ∧ validateBits 2 = .ok 2 := by decide
/-- V28, V29, V30: the acceptance check. -/
theorem test_exponent_check :
    exponentAccepted 60000 131 = true ∧ exponentAccepted 408720 131 = false ∧ exponentAccepted 408720 137 = true := by decide
/-- S7 and its first half in P1: "A" is encrypted to the digits 29073. -/
theorem test_encrypt_A :
    encryptStart 2 60491 131 (textToBytes "A") = .ok (cipherProgram 60491 131 65) ∧
      encryptFinish (valueRead ((answers (State.resetOf 2) (programEvents 2 ((cipherProgram 60491 131 65).map fun st => (1, st)))).reverse.take 2).reverse)
        = "29073".toList := by decide +kernel
/-- 30_encoding.md R97 to R99: lines of a program. -/
theorem test_lines :
    stmtOfLine "LOAD N, 60491   # modulus".toList = some (.load .N 60491) ∧ stmtOfLine "READ R -> c".toList = some (.readBank .R) ∧
      stmtOfLine "WR CTRL, 0x1".toList = some (.wr 0x010#12 1#32) ∧ stmtOfLine "RD A[1]".toList = some (.rd 0x404#12) ∧
      stmtOfLine "RUN MODEXP".toList = some (.run .modexp) ∧ stmtOfLine "DIVIDE".toList = none := by decide +kernel

/- ======== witnesses: for each statement with hypotheses, values that meet them, at the ends of their ranges ======== -/

theorem witness_IllegalWordsAreRejected :
    256 ≤ (0x00000100#32).toNat ∧ 256 ≤ (0xFFFFFFFF#32).toNat ∧ 8 ≤ (0x00000008#32).toNat ∧ (0x00000008#32).toNat < 256 ∧
      8 ≤ (0x000000FF#32).toNat ∧ (0x000000FF#32).toNat < 256 := by decide

theorem witness_DecodeInvertsEncode : decode 0x00000007#32 = .ok .clr := by decide

theorem witness_OperandValueAndWords :
    0 < 32 * [1#32, 2#32].length ∧ 63 < 32 * [1#32, 2#32].length ∧ 2 ^ 64 - 1 < 2 ^ (32 * 2) ∧ 0 < 2 ∧ 1 < 2 := by decide

theorem witness_OperandIsLittleEndian : ∃ s : State, s.Inv ∧ 0 < 4 * s.k ∧ 7 < 4 * s.k ∧ 0 < s.k ∧ 1 < s.k :=
  ⟨small 60491 65 0 131 0, small_inv .., by decide, by decide, by decide, by decide⟩

theorem witness_MessageBytesInRegisterA : ∃ (s : State) (full part : List Byte), s.Inv ∧
    full.length ≤ 4 * s.k ∧ 0 < full.length ∧ 7 < full.length ∧
    part.length ≤ 4 * s.k ∧ part.length ≤ 1 ∧ part.length ≤ 7 ∧ 7 < 4 * s.k :=
  ⟨small 0 0 0 0 0, [1#8, 2#8, 3#8, 4#8, 5#8, 6#8, 7#8, 8#8], [0x41#8], small_inv .., by decide, by decide, by decide, by decide,
    by decide, by decide, by decide⟩

theorem witness_ModexpProcedureIsThePower :
    (1 ≤ 1 ∧ 2 ^ 8 - 1 < 2 ^ 8 ∧ 0 = 255 ^ (255 / 2 ^ (0 + 1)) % 1 ∧ 2 ^ 8 - 1 < 2 ^ 8 ∧ 1 < 2 ^ 8 ∧ 0 < 1) ∧
    (1 ≤ 255 ∧ 0 < 2 ^ 8 ∧ 1 = 7 ^ (0 / 2 ^ (7 + 1)) % 255 ∧ 0 < 2 ^ 8 ∧ 255 < 2 ^ 8 ∧ 254 < 255) := by decide

theorem witness_ModmulIsTheUniqueRemainder :
    (1 ≤ 1 ∧ 0 < 1 ∧ 3 * 5 = 15 * 1 + 0) ∧ (1 ≤ 60491 ∧ 50187 < 60491 ∧ 1234 * 5678 = 115 * 60491 + 50187 ∧
      1234 < 2 ^ 32 ∧ 5678 < 2 ^ 32 ∧ 2 ^ 32 - 1 < 2 ^ 32) := by decide

theorem witness_UnreducedOperandsComputeTheSame : 1 ≤ 1 ∧ 1 ≤ 60491 ∧ 0 < 2 ^ 32 ∧ 2 ^ 32 - 1 < 2 ^ 32 := by decide

theorem witness_BarrettSketchIsExact :
    (1 ≤ 1 ∧ 3 < 2 ^ (2 * bitLength 1)) ∧ (1 ≤ 255 ∧ 0 < 2 ^ (2 * bitLength 255) ∧ 65535 < 2 ^ (2 * bitLength 255)) := by
  decide +kernel

/-- A modulus that is zero, and one that is not, for the four arithmetic commands; for `MODSQR` also `val(B) = val(A)`. -/
theorem witness_ArithmeticEffects :
    (∃ s : State, s.Inv ∧ s.val .N ≠ 0 ∧ s.val .B = s.val .A) ∧ ∃ s : State, s.Inv ∧ s.val .N = 0 :=
  ⟨⟨small 1 65 65 131 0, small_inv .., by decide, by decide⟩, ⟨small 0 65 0 131 0, small_inv .., by decide⟩⟩

theorem witness_NopEffect : ∃ s t : State, exec .nop s = .next t ∧ s.status.busy = false :=
  ⟨small 0 0 0 0 0, _, rfl, rfl⟩

theorem witness_ArithmeticCornerCases :
    (∃ s : State, s.Inv ∧ s.val .N = 1 ∧ isArithmetic .modexp = true) ∧
    (∃ s : State, s.Inv ∧ s.val .N ≠ 0 ∧ s.val .A = 0 ∧ s.val .B = 0 ∧ 1 ≤ s.val .E) ∧
    (∃ s : State, s.Inv ∧ s.val .N ≠ 0 ∧ s.val .A ≠ 0 ∧ s.val .B = 0) ∧
    (∃ s : State, s.Inv ∧ s.val .N ≠ 0 ∧ s.val .A = 0 ∧ s.val .E = 0) ∧
    ∃ s : State, s.Inv ∧ s.val .N = 0 :=
  ⟨⟨small 1 5 0 3 0, small_inv .., by decide, by decide⟩, ⟨small 60491 0 0 1 0, small_inv .., by decide, by decide, by decide, by decide⟩,
    ⟨small 60491 5678 0 1 0, small_inv .., by decide, by decide, by decide⟩,
    ⟨small 60491 0 0 0 0, small_inv .., by decide, by decide, by decide⟩, ⟨small 0 5 0 3 0, small_inv .., by decide⟩⟩

theorem witness_ResultIsBelowTheModulus : ∃ (s : State) (i : Instr), s.Inv ∧ isArithmetic i = true ∧ s.val .N ≠ 0 :=
  ⟨small 1 65 0 131 0, .modred, small_inv .., rfl, by decide⟩

theorem witness_CommandsTouchOnlyTheirRegisters : writesBank .modexp .A = false ∧ writesBank .nop .R = false := ⟨rfl, rfl⟩

/-- Two engines that differ in `B` and in `R`, which `MODRED` does not read. -/
theorem witness_CommandsDependOnlyOnWhatTheyRead : ∃ s s' t : State, s ≠ s' ∧ s.k = s'.k ∧ s.status = s'.status ∧
    (∀ x, readsBank .modred x = true → s.bank x = s'.bank x) ∧ exec .modred s = .next t ∧ t.status.err = false ∧
    writesBank .modred .R = true :=
  ⟨small 60491 65 0 131 0, small 60491 65 9 131 9, _, by decide, rfl, rfl,
    fun x h => (by cases x <;> first | rfl | cases h), rfl, by decide +kernel, rfl⟩

/-- The running key. -/
theorem witness_RsaRoundTripOnTheEngine : ∃ s : State, s.Inv ∧ Nat.Prime 251 ∧ Nat.Prime 241 ∧ 251 ≠ 241 ∧ s.val .N = 251 * 241 ∧
    29771 * s.val .E % ((251 - 1) * (241 - 1)) = 1 ∧ 29771 < 2 ^ s.nbits ∧ s.val .A < s.val .N :=
  ⟨small 60491 65 0 131 0, small_inv .., by norm_num, by norm_num, by decide, by decide, by decide, by decide, by decide⟩

theorem witness_ExponentCheckByModred : (small 131 60000 0 0 0).val .N ≠ 0 := by decide

theorem witness_StepRunsTheDecodedCommand :
    (∃ s : State, s.schedule = [] ∧ s.engineTurn ∧ s.status.busy = true ∧ decode s.cmdreg = .ok .clr) ∧
    ∃ s : State, s.schedule ≠ [] ∧ s.engineTurn ∧ s.status.busy = true ∧ decode s.cmdreg = .ok .clr :=
  ⟨⟨busyWith 7#32 1 2 3 4 5, rfl, .inl rfl, rfl, by decide⟩,
    ⟨(busyWith 7#32 1 2 3 4 5).withEvents [.completion], by decide, .inr ⟨[], rfl⟩, rfl, by decide⟩⟩

theorem witness_CompletionEnabledExactlyWhenBusy :
    (∃ s : State, s.engineTurn ∧ s.status.busy = true) ∧ ∃ s : State, s.engineTurn ∧ s.status.busy = false :=
  ⟨⟨busyWith 7#32 1 2 3 4 5, .inl rfl, rfl⟩, ⟨small 1 2 3 4 5, .inl rfl, rfl⟩⟩

theorem witness_PlacedWordIsRunNext : decodeTableWord 32 0 = some .nop ∧ decodeTableWord 32 7 = some .clr := by decide

/-- The first word above the map is illegal. -/
theorem eight_not_legal : ¬ legalWord 0x8#32 := by
  rintro ⟨i, h⟩
  cases i <;> exact absurd h (by decide)

theorem witness_IllegalWordEndsInError : ∃ s : State, s.engineTurn ∧ s.status.busy = true ∧ ¬ legalWord s.cmdreg :=
  ⟨busyWith 0x8#32 1 2 3 4 5, .inl rfl, rfl, eight_not_legal⟩

theorem witness_ZeroModulusEndsInError : ∃ s : State, s.val .N = 0 ∧ isArithmetic .modmul = true ∧ isArithmetic .movrb = false :=
  ⟨small 0 2 3 4 5, by decide, rfl, rfl⟩

/-- With the two clauses: an illegal word, and a zero modulus. -/
theorem witness_ErrorCausesAreExact :
    (∃ s : State, s.Inv ∧ s.engineTurn ∧ s.status.busy = true ∧ ¬ legalWord s.cmdreg) ∧
    ∃ s : State, s.Inv ∧ s.engineTurn ∧ s.status.busy = true ∧ s.cmdreg = encode .modred ∧ s.val .N = 0 :=
  ⟨⟨busyWith 0x8#32 1 2 3 4 5, busyWith_inv .., .inl rfl, rfl, eight_not_legal⟩,
    ⟨busyWith 0x4#32 0 2 3 4 5, busyWith_inv .., .inl rfl, rfl, rfl, by decide⟩⟩

theorem witness_ErrorEntryChangesFourFields : ∃ s t : State, s.Inv ∧ s.engineTurn ∧ s.status.busy = true ∧ step s = .next t ∧
    t.status.err = true :=
  ⟨busyWith 0x8#32 1 2 3 4 5, after (busyWith 0x8#32 1 2 3 4 5), busyWith_inv .., .inl rfl, rfl, rfl, by decide +kernel⟩

theorem witness_WarningFlagsOfEachStep :
    (∃ s : State, s.Inv ∧ s.engineTurn ∧ s.status.busy = true ∧ s.cmdreg = encode .modmul ∧ s.val .N ≠ 0 ∧ isArithmetic .modmul = true) ∧
    (∃ s : State, s.Inv ∧ s.engineTurn ∧ s.status.busy = true ∧ s.cmdreg = encode .modred ∧ s.val .N ≠ 0 ∧ isArithmetic .modred = true) ∧
    (∃ s : State, s.Inv ∧ s.engineTurn ∧ s.status.busy = true ∧ ¬ ∃ i, s.cmdreg = encode i ∧ isArithmetic i = true ∧ s.val .N ≠ 0) ∧
    (∃ s : State, s.Inv ∧ s.schedule = [.write cmdOffset 4 1#32] ∧ s.status.busy = false) ∧
    (∃ s : State, s.Inv ∧ s.schedule = [.reset]) ∧
    ∃ s : State, s.Inv ∧ ¬ (s.engineTurn ∧ s.status.busy = true) ∧ (∀ v rest, s.schedule ≠ .write cmdOffset 4 v :: rest) ∧
      ∀ rest, s.schedule ≠ .reset :: rest := by
  refine ⟨⟨busyWith 2#32 1 2 3 4 5, busyWith_inv .., .inl rfl, rfl, rfl, by decide, rfl⟩,
    ⟨busyWith 4#32 1 2 3 4 5, busyWith_inv .., .inl rfl, rfl, rfl, by decide, rfl⟩,
    ⟨busyWith 0x8#32 1 2 3 4 5, busyWith_inv .., .inl rfl, rfl, fun ⟨i, h, _⟩ => eight_not_legal ⟨i, h⟩⟩, ?_, ?_,
    ⟨small 1 2 3 4 5, small_inv .., fun h => (by cases h.2), fun _ _ h => (by cases h), fun _ h => (by cases h)⟩⟩
  · exact ⟨(small 1 2 3 4 5).withEvents [.write cmdOffset 4 1#32], withEvents_inv (small_inv ..) _, rfl, rfl⟩
  · exact ⟨(small 1 2 3 4 5).withEvents [.reset], withEvents_inv (small_inv ..) _, rfl⟩

theorem witness_MapOfTheWindow : legalK 1 = true ∧ legalK 128 = true ∧ isWordOffset 1 0x200#12 .N 0 ∧
    isWordOffset 128 0x3FC#12 .N 127 ∧ isWordOffset 128 0x400#12 .A 0 ∧ isWordOffset 128 0xBFC#12 .R 127 := by
  unfold isWordOffset; decide

theorem witness_ErrorResponseChangesNothing :
    8 ≠ 4 ∧ (0x002#12 : Offset).toNat % 4 ≠ 0 ∧ 0x014 ≤ (0x014#12 : Offset).toNat ∧ (0x1FF#12 : Offset).toNat < 0x200 ∧
    0xC00 ≤ (0xC00#12 : Offset).toNat ∧ 0x200 ≤ (0x208#12 : Offset).toNat ∧
    4 * (small 1 2 3 4 5).k ≤ (0x208#12 : Offset).toNat % 0x200 := by decide

theorem witness_ReadsOfTheWindow :
    (∃ s : State, s.Inv ∧ s.status.busy = false ∧ isWordOffset s.k 0x200#12 .N 0) ∧
    ∃ s : State, s.Inv ∧ s.status.busy = true ∧ isWordOffset s.k 0xA04#12 .R 1 :=
  ⟨⟨small 1 2 3 4 5, small_inv .., rfl, by unfold isWordOffset; decide⟩,
    ⟨busyWith 1#32 1 2 3 4 5, busyWith_inv .., rfl, by unfold isWordOffset; decide⟩⟩

theorem witness_WritesOfTheWindow :
    (∃ s : State, s.Inv ∧ s.status.busy = false ∧ isWordOffset s.k 0xA00#12 .R 0 ∧ isWordOffset s.k 0x804#12 .E 1 ∧ Bank.E ≠ .R) ∧
    ∃ s : State, s.Inv ∧ s.status.busy = true ∧ isWordOffset s.k 0x200#12 .N 0 :=
  ⟨⟨small 1 2 3 4 5, small_inv .., rfl, by unfold isWordOffset; decide, by unfold isWordOffset; decide, by decide⟩,
    ⟨busyWith 1#32 1 2 3 4 5, busyWith_inv .., rfl, by unfold isWordOffset; decide⟩⟩

theorem witness_WrittenWordIsReadBack : ∃ s t : State, s.Inv ∧ s.status.busy = false ∧ Bank.E ≠ .R ∧ isWordOffset s.k 0x804#12 .E 1 ∧
    step (s.withEvents [.write 0x804#12 4 9#32]) = .next t ∧ isWordOffset s.k 0x800#12 .E 0 ∧ (0x800#12 : Offset) ≠ 0x804#12 :=
  ⟨small 1 2 3 4 5, _, small_inv .., rfl, by decide, by unfold isWordOffset; decide, rfl, by unfold isWordOffset; decide, by decide⟩

theorem witness_IdAndParamAreConstant : ∃ s t : State, s.Inv ∧ step s = .next t := ⟨small 1 2 3 4 5, _, small_inv .., rfl⟩

theorem witness_BusyReadsHideTheOperands : ∃ s s' : State, s.A ≠ s'.A ∧ s.status.busy = true ∧ s'.status = s.status ∧ s'.k = s.k ∧
    s'.cmdreg = s.cmdreg ∧ s'.ie = s.ie :=
  ⟨busyWith 1#32 1 2 3 4 5, busyWith 1#32 1 9 3 4 5, by decide, rfl, rfl, rfl, rfl, rfl⟩

theorem witness_ResetStateMeetsTheInvariant : legalK 1 = true ∧ legalK 128 = true := by decide

theorem witness_EveryStepKeepsTheInvariant : ∃ s t : State, s.Inv ∧ step s = .next t ∧ s ≠ t :=
  ⟨busyWith 7#32 1 2 3 4 5, after (busyWith 7#32 1 2 3 4 5), busyWith_inv .., rfl, by decide +kernel⟩

/-- A host write, a completion, an acceptance, a write of `CTRL`. -/
theorem witness_RegistersPersist :
    (∃ s t : State, step s = .next t ∧ t.bank .A ≠ s.bank .A ∧ s.status.busy = false) ∧
    (∃ s t : State, step s = .next t ∧ t.bank .A ≠ s.bank .A ∧ s.status.busy = true) ∧
    (∃ s t : State, step s = .next t ∧ t.cmdreg ≠ s.cmdreg) ∧ ∃ s t : State, step s = .next t ∧ t.ie ≠ s.ie :=
  ⟨⟨(small 1 2 3 4 5).withEvents [.write 0x404#12 4 9#32], _, rfl, by decide, rfl⟩,
    ⟨busyWith 5#32 1 2 3 4 5, _, rfl, by decide, rfl⟩,
    ⟨(small 1 2 3 4 5).withEvents [.write cmdOffset 4 9#32], _, rfl, by decide⟩,
    ⟨(small 1 2 3 4 5).withEvents [.write ctrlOffset 4 1#32], _, rfl, by decide⟩⟩

theorem witness_AccerrRecordsRefusedWrites :
    (∃ s t : State, step s = .next t ∧ s.status.accerr = false ∧ t.status.accerr = true) ∧
    ∃ s t : State, step s = .next t ∧ s.status.accerr = true ∧ t.status.accerr = false :=
  ⟨⟨(small 1 2 3 4 5).withEvents [.write 0xA04#12 4 9#32], _, rfl, rfl, by decide⟩,
    ⟨(small 1 2 3 4 5).refuseWrite.withEvents [.write statusOffset 4 0x20#32], _, rfl, rfl, by decide⟩⟩

theorem witness_DoneRecordsCompletions :
    (∃ s t : State, step s = .next t ∧ s.engineTurn ∧ s.status.busy = true ∧ s.status.done = false ∧ t.status.done = true) ∧
    (∃ s t : State, step s = .next t ∧ s.status.done = true ∧ t.status.done = false ∧
      s.schedule.head? = some (.write statusOffset 4 2#32) ∧ (2#32).getLsbD 1 = true) ∧
    (∃ s t : State, step s = .next t ∧ s.schedule.head? = some (.write cmdOffset 4 1#32) ∧ s.status.busy = false) ∧
    ∃ s t : State, step s = .next t ∧ s.schedule.head? = some .reset :=
  ⟨⟨busyWith 5#32 1 2 3 4 5, _, rfl, .inl rfl, rfl, rfl, by decide⟩,
    ⟨(small 1 2 3 4 5).finish.withEvents [.write statusOffset 4 2#32], _, rfl, rfl, by decide, rfl, by decide⟩,
    ⟨(small 1 2 3 4 5).withEvents [.write cmdOffset 4 1#32], _, rfl, rfl, rfl⟩, ⟨(small 1 2 3 4 5).withEvents [.reset], _, rfl, rfl⟩⟩

theorem witness_InterruptFollowsDoneAndEnable :
    (∃ s t : State, step s = .next t ∧ s.engineTurn ∧ s.status.busy = true) ∧
    (∃ s t : State, step s = .next t ∧ s.schedule.head? = some (.write ctrlOffset 4 1#32)) ∧
    (∃ s t : State, step s = .next t ∧ s.schedule.head? = some (.write statusOffset 4 2#32) ∧ (2#32).getLsbD 1 = true) ∧
    (∃ s t : State, step s = .next t ∧ s.schedule.head? = some (.write cmdOffset 4 1#32) ∧ s.status.busy = false) ∧
    (∃ s t : State, step s = .next t ∧ s.schedule.head? = some .reset) ∧
    (∃ s t : State, step s = .next t ∧ s.schedule.head? = some (.read 0xFFF#12 8)) ∧
    ∃ s t : State, step s = .next t ∧ t.status = { s.status with accerr := true } ∧ t.ie = s.ie :=
  ⟨⟨busyWith 5#32 1 2 3 4 5, _, rfl, .inl rfl, rfl⟩, ⟨(small 1 2 3 4 5).withEvents [.write ctrlOffset 4 1#32], _, rfl, rfl⟩,
    ⟨(small 1 2 3 4 5).withEvents [.write statusOffset 4 2#32], _, rfl, rfl, by decide⟩,
    ⟨(small 1 2 3 4 5).withEvents [.write cmdOffset 4 1#32], _, rfl, rfl, rfl⟩, ⟨(small 1 2 3 4 5).withEvents [.reset], _, rfl, rfl⟩,
    ⟨(small 1 2 3 4 5).withEvents [.read 0xFFF#12 8], _, rfl, rfl⟩,
    ⟨(small 1 2 3 4 5).withEvents [.write 0x000#12 4 1#32], _, rfl, by decide, by decide⟩⟩

theorem witness_ResetStateReads : legalK 1 = true ∧ legalK 128 = true := by decide

/-- While busy, with an access after it. -/
theorem witness_ResetEventAbandonsAndClears :
    (∃ s t : State, s.schedule = [.reset] ∧ s.status.busy = true ∧ step s = .next t ∧ t.engineTurn ∧ t.status.busy = false) ∧
    ∃ s t u : State, step s = .next t ∧ s.schedule = [.reset] ∧ step (t.withEvents [.read 0x200#12 4]) = .next u :=
  ⟨⟨(busyWith 1#32 1 2 3 4 5).withEvents [.reset], _, rfl, rfl, rfl, .inl rfl, rfl⟩,
    ⟨(busyWith 1#32 1 2 3 4 5).withEvents [.reset], _, _, rfl, rfl, rfl⟩⟩

theorem witness_HostCannotChangeTheCommandInFlight : ∃ (s : State) (evs : List Event), evs ≠ [] ∧ s.Inv ∧ s.status.busy = true ∧
    ∀ ev ∈ evs, isAccess ev = true :=
  ⟨busyWith 1#32 60491 65 0 131 0, [.write 0x200#12 4 9#32, .write cmdOffset 4 7#32, .read 0xA00#12 4], by decide, busyWith_inv .., rfl,
    by decide⟩

theorem witness_ResultStaysUntilTheNextCommand : ∃ (s : State) (evs : List Event), s.status.busy = false ∧
    ∀ ev ∈ evs, ev ≠ .reset ∧ ∀ v, ev ≠ .write cmdOffset 4 v :=
  ⟨small 1 2 3 4 5, [.write 0xA00#12 4 9#32, .completion], rfl, by
    intro ev h
    simp only [List.mem_cons, List.not_mem_nil, or_false] at h
    rcases h with rfl | rfl
    · exact ⟨by decide, fun v h => by injection h with h; exact absurd h (by decide)⟩
    · exact ⟨by decide, fun v h => by cases h⟩⟩

theorem witness_SecondCommandIsLost : ∃ s t : State, s.Inv ∧ s.status.busy = true ∧ executeCommand s = .next t :=
  ⟨busyWith 5#32 1 2 3 4 5, _, busyWith_inv .., rfl, rfl⟩

theorem witness_LoadWritesTheWholeRegister : ∃ s : State, s.Inv ∧ s.status.busy = false ∧
    (Stmt.load .N 0).wellFormed s.k = true ∧ (Stmt.load .E (2 ^ 64 - 1)).wellFormed s.k = true :=
  ⟨small 1 2 3 4 5, small_inv .., rfl, by decide, by decide⟩

theorem witness_ReadShowsTheValue : ∃ s : State, s.Inv ∧ s.status.busy = false := ⟨small 1 2 3 4 5, small_inv .., rfl⟩

theorem witness_DecimalConversionsAgree :
    (renderDecimal 0).head? = some '0' ∧ (∃ c, parseDecimal ['0', '9'] = .ok c) ∧ ['0', '9'] ≠ [] ∧
      ∀ ch ∈ ['0', '9'], '0' ≤ ch ∧ ch ≤ '9' :=
  ⟨by decide +kernel, ⟨9, by decide⟩, by decide, by simp only [List.forall_mem_cons]; exact ⟨by decide, by decide, fun _ h => by cases h⟩⟩

end Sys2Proof.Tests
end

/-! Operand registers as integers, words and bits (00_scope.md R11). -/

namespace Sys2Proof.Machine

/-- Word `i` of a register is the `i`th digit of its value in base `2^32`; past the last word both are 0. -/
theorem toNat_getD_eq_valueOf_digit (ws : List Word) (i : Nat) :
    (ws.getD i 0#32).toNat = valueOf ws / 2 ^ (32 * i) % 2 ^ 32 := by
  induction ws generalizing i with
  | nil => simp [valueOf]
  | cons w ws ih =>
    have hw := w.isLt
    cases i with
    | zero =>
      rw [List.getD_cons_zero, valueOf, Nat.mul_zero, pow_zero, Nat.div_one]
      omega
    | succ i =>
      have hd : (w.toNat + 2 ^ 32 * valueOf ws) / 2 ^ 32 = valueOf ws := by omega
      rw [List.getD_cons_succ, ih, valueOf, Nat.mul_succ, Nat.add_comm (32 * i), pow_add, ← Nat.div_div_eq_div_mul, hd]

theorem valueOf_eq_sum (ws : List Word) :
    valueOf ws = ((List.range ws.length).map fun i => (ws.getD i 0#32).toNat * 2 ^ (32 * i)).sum := by
  induction ws with
  | nil => rfl
  | cons w ws ih =>
    have hshift (i : Nat) : (ws.getD i 0#32).toNat * 2 ^ (32 * (i + 1)) =
        2 ^ 32 * ((ws.getD i 0#32).toNat * 2 ^ (32 * i)) := by ring
    rw [valueOf, ih, List.length_cons, List.range_succ_eq_map, List.map_cons, List.sum_cons, List.map_map,
      ← List.sum_map_mul_left]
    simp only [Function.comp_def, List.getD_cons_zero, List.getD_cons_succ, Nat.succ_eq_add_one, hshift,
      Nat.mul_zero, pow_zero, Nat.mul_one]

theorem bitOf_eq_testBit (ws : List Word) (j : Nat) : bitOf ws j = (valueOf ws).testBit j := by
  have hlane : j % 32 < 32 := Nat.mod_lt j (by decide)
  have hj : j % 32 + 32 * (j / 32) = j := Nat.mod_add_div j 32
  rw [bitOf, BitVec.getLsbD, toNat_getD_eq_valueOf_digit, Nat.testBit_mod_two_pow, Nat.testBit_div_two_pow, hj]
  simp [hlane]

end Sys2Proof.Machine

namespace Sys2Proof.Proofs

open Sys2Proof.Machine

/-- Settles O5: the words are the base `2^32` digits of the value, so its bits are their bits, and a value below
`2^(32*k)` is recovered from its `k` words. -/
theorem operandValueAndWords : Obligations.OperandValueAndWords := by
  refine ⟨fun ws => ⟨valueOf_eq_sum ws, valueOf_lt ws, fun j _ => ?_⟩,
    fun k v hv => ⟨valueOf_wordsOf hv, length_wordsOf k v, fun i _ => ?_⟩⟩
  · rw [bitOf_eq_testBit, Nat.testBit_eq_decide_div_mod_eq]
  · rw [toNat_getD_eq_valueOf_digit, valueOf_wordsOf hv]

end Sys2Proof.Proofs

/-! The decoder and the encoder agree (30_encoding.md R90, R94). -/

namespace Sys2Proof.Machine

@[simp] theorem decode_encode (i : Instr) : decode (encode i) = .ok i := by
  cases i <;> rfl

theorem zero_append_opcode (w : Word) : (formatOf w).zero ++ (formatOf w).opcode = w := by
  simp only [formatOf, bitField]
  rw [BitVec.extractLsb'_append_extractLsb'_eq_extractLsb' (by decide)]
  simp

theorem encode_of_decode {w : Word} {i : Instr} (h : decode w = .ok i) : encode i = w := by
  rw [← zero_append_opcode w]
  unfold decode at h
  split at h
  case isTrue hzero =>
    have hopcode : (formatOf w).opcode = BitVec.ofNat 8 (formatOf w).opcode.toNat := by simp
    rw [hzero, hopcode]
    split at h <;> cases h
    all_goals
      rw [‹(formatOf w).opcode.toNat = _›]
      rfl
  case isFalse => cases h

theorem decode_eq_ok_iff {w : Word} {i : Instr} : decode w = .ok i ↔ w = encode i :=
  ⟨fun h => (encode_of_decode h).symm, fun h => h ▸ decode_encode i⟩

theorem not_legalWord_of_decode_error {w : Word} {e : DecodeError} (h : decode w = .error e) : ¬ legalWord w := by
  rintro ⟨i, rfl⟩
  rw [decode_encode] at h
  cases h

theorem wordOfBytes_byteLanes (w : Word) :
    wordOfBytes (byteLane w 0) (byteLane w 1) (byteLane w 2) (byteLane w 3) = w := by
  simp only [wordOfBytes, byteLane, bitField]
  repeat rw [BitVec.extractLsb'_append_extractLsb'_eq_extractLsb' (by decide)]
  simp

/-- What the decoder reads from a table word is the command of the word that `State.withFetchWord` places. -/
theorem encode_of_decodeTableWord {nbits w : Nat} {i : Instr} (h : decodeTableWord nbits w = some i) :
    encode i = BitVec.ofNat 32 (w % 2 ^ nbits) := by
  unfold decodeTableWord at h
  simp only [bytesOfWord, decodeBytes, wordOfBytes_byteLanes] at h
  split at h
  case isTrue =>
    cases hd : decode (BitVec.ofNat 32 (w % 2 ^ nbits)) with
    | ok j =>
      simp only [hd, Option.some.injEq] at h
      exact encode_of_decode (h ▸ hd)
    | error e => simp [hd] at h
  case isFalse => cases h

end Sys2Proof.Machine

/-! The slave port: where a mapped word lies (20_memory.md R61, R67), and the bits of `STATUS` and `PARAM`
(10_state.md R30, R32). -/

namespace Sys2Proof.Machine

/-- The offset of a mapped word in the window (20_memory.md R61). -/
def Location.offset : Location → Nat
  | .id => 0x000
  | .param => 0x004
  | .cmd => 0x008
  | .status => 0x00C
  | .ctrl => 0x010
  | .operand x i => bankOffset x + 4 * i

theorem bankOffset_of_bankOfSlot {slot : Nat} {x : Bank} (h : bankOfSlot slot = some x) :
    bankOffset x = Config.bankStride * slot := by
  unfold bankOfSlot at h
  split at h <;> cases h <;> rfl

theorem offset_of_mapped {k off : Nat} {l : Location} (haligned : off % 4 = 0) (h : mapped k off = some l) :
    off = l.offset ∧ ∀ x i, l = .operand x i → i < k := by
  unfold mapped at h
  split at h
  case h_6 =>
    split at h
    case h_1 x hslot =>
      have hbase := bankOffset_of_bankOfSlot hslot
      split at h <;> cases h
      simp only [Config.bankStride] at *
      refine ⟨by simp only [Location.offset]; omega, fun y i hl => ?_⟩
      cases hl
      omega
    case h_2 => cases h
  all_goals
    cases h
    exact ⟨rfl, fun x i hl => by cases hl⟩

theorem locate_eq_some {k size : Nat} {off : Offset} {l : Location} (h : locate k off size = some l) :
    size = 4 ∧ off.toNat = l.offset ∧ ∀ x i, l = .operand x i → i < k := by
  unfold locate at h
  split at h
  case isTrue hword => exact ⟨hword.1, offset_of_mapped hword.2 h⟩
  case isFalse => cases h

theorem eq_cmdOffset_of_locate {k size : Nat} {off : Offset} (h : locate k off size = some .cmd) : off = cmdOffset :=
  BitVec.eq_of_toNat_eq (locate_eq_some h).2.1

theorem eq_statusOffset_of_locate {k size : Nat} {off : Offset} (h : locate k off size = some .status) :
    off = statusOffset :=
  BitVec.eq_of_toNat_eq (locate_eq_some h).2.1

theorem eq_ctrlOffset_of_locate {k size : Nat} {off : Offset} (h : locate k off size = some .ctrl) :
    off = ctrlOffset :=
  BitVec.eq_of_toNat_eq (locate_eq_some h).2.1

theorem isWordOffset_of_locate {k size i : Nat} {off : Offset} {x : Bank}
    (h : locate k off size = some (.operand x i)) : isWordOffset k off x i := by
  obtain ⟨-, hoff, hlt⟩ := locate_eq_some h
  exact ⟨hlt x i rfl, hoff⟩

@[simp] theorem locate_idOffset (k : Nat) : locate k 0x000#12 4 = some .id := rfl
@[simp] theorem locate_paramOffset (k : Nat) : locate k 0x004#12 4 = some .param := rfl
@[simp] theorem locate_cmdOffset (k : Nat) : locate k cmdOffset 4 = some .cmd := rfl
@[simp] theorem locate_statusOffset (k : Nat) : locate k statusOffset 4 = some .status := rfl
@[simp] theorem locate_ctrlOffset (k : Nat) : locate k ctrlOffset 4 = some .ctrl := rfl

theorem Bank.hostWritable_eq_false {x : Bank} : x.hostWritable = false ↔ x = .R := by
  cases x <;> decide

theorem paramWord_fields {k : Nat} (hk : k < 256) :
    ((paramWord k).extractLsb' 0 8).toNat = k ∧ (paramWord k).extractLsb' 8 8 = 0x01#8 ∧
      (paramWord k).extractLsb' 16 16 = 0#16 := by
  simp only [paramWord, Config.version, BitVec.extractLsb'_append_eq_ite (w := 8)]
  simp [hk]

theorem paramWord_eq_ofNat {k : Nat} (hk : k < 256) : paramWord k = BitVec.ofNat 32 (0x100 + k) := by
  apply BitVec.eq_of_toNat_eq
  rw [paramWord, BitVec.toNat_append, ← Nat.shiftLeft_add_eq_or_of_lt (BitVec.isLt _)]
  simp [Config.version, Nat.mod_eq_of_lt hk]
  omega

theorem Status.word_clear : Status.clear.word = 0#32 := by decide

theorem ctrlWord_false : ctrlWord false = 0#32 := by decide

theorem Status.word_bits (st : Status) :
    st.word.getLsbD 0 = st.busy ∧ st.word.getLsbD 1 = st.done ∧ st.word.getLsbD 2 = st.err ∧
      st.word.getLsbD 3 = st.ge ∧ st.word.getLsbD 4 = st.z ∧ st.word.getLsbD 5 = st.accerr := by
  simp only [Status.word, BitVec.getLsbD_append (m := 1)]
  simp

theorem Status.word_fields (st : Status) :
    st.word.extractLsb' 6 2 = 0#2 ∧ st.word.extractLsb' 8 4 = st.ecode.code ∧ st.word.extractLsb' 12 20 = 0#20 := by
  simp only [Status.word, BitVec.extractLsb'_append_eq_ite (w := 1), BitVec.extractLsb'_append_eq_ite (w := 2),
    BitVec.extractLsb'_append_eq_ite (w := 4)]
  simp

end Sys2Proof.Machine

/-! What a command does, said once: its result and `GE`, the registers it moves, and its frame (10_state.md R26, R48). -/

namespace Sys2Proof.Machine

section TurnTaken

variable (s : State)

@[simp] theorem State.turnTaken_k : s.turnTaken.k = s.k := rfl
@[simp] theorem State.turnTaken_cmdreg : s.turnTaken.cmdreg = s.cmdreg := rfl
@[simp] theorem State.turnTaken_status : s.turnTaken.status = s.status := rfl
@[simp] theorem State.turnTaken_ie : s.turnTaken.ie = s.ie := rfl
@[simp] theorem State.turnTaken_bank (x : Bank) : s.turnTaken.bank x = s.bank x := by cases x <;> rfl
@[simp] theorem State.turnTaken_val (x : Bank) : s.turnTaken.val x = s.val x := by cases x <;> rfl

end TurnTaken

@[simp] theorem State.writeResult_bank_R (s : State) (r : Nat) (ge : Bool) :
    (s.writeResult r ge).bank .R = wordsOf s.k r := rfl

theorem State.writeResult_bank_ne (s : State) (r : Nat) (ge : Bool) {x : Bank} (h : x ≠ .R) :
    (s.writeResult r ge).bank x = s.bank x :=
  State.setBank_bank_ne s .R x (wordsOf s.k r) h

theorem State.writeResult_val_R {s : State} {r : Nat} (ge : Bool) (h : r < 2 ^ (32 * s.k)) :
    (s.writeResult r ge).val .R = r :=
  valueOf_wordsOf h

/-- The result of an arithmetic command, where `val(N) != 0` (40_arith_commands.md R120 to R126). -/
def State.commandResult (s : State) : Instr → Nat
  | .modexp => modexp s.nbits (s.val .A) (s.val .E) (s.val .N)
  | .modmul => modmul (s.val .A) (s.val .B) (s.val .N)
  | .modsqr => modsqr (s.val .A) (s.val .N)
  | .modred => modred (s.val .A) (s.val .N)
  | _ => 0

/-- `GE` of an arithmetic command (10_state.md R36). -/
def State.commandGe (s : State) : Instr → Bool
  | .modexp => geOf (s.val .A) (s.val .N)
  | .modmul => geOfTwo (s.val .A) (s.val .B) (s.val .N)
  | .modsqr => geOf (s.val .A) (s.val .N)
  | .modred => geOf (s.val .A) (s.val .N)
  | _ => false

/-- What a move or control command does to the operand registers (41_move_control_commands.md R140 to R147). -/
def State.moved (s : State) : Instr → State
  | .movra => s.setBank .A (s.bank .R)
  | .movrb => s.setBank .B (s.bank .R)
  | .clr => s.clearBanks
  | _ => s

theorem exec_of_isArithmetic {i : Instr} (h : isArithmetic i = true) (s : State) :
    exec i s = .next (s.arithmetic (s.commandResult i) (s.commandGe i)) := by
  cases i with
  | modexp | modmul | modsqr | modred => rfl
  | nop | movra | movrb | clr => cases h

theorem exec_of_not_isArithmetic {i : Instr} (h : isArithmetic i = false) (s : State) :
    exec i s = .next (s.moved i).finish := by
  cases i with
  | nop | movra | movrb | clr => rfl
  | modexp | modmul | modsqr | modred => cases h

theorem exec_arithmetic_of_ne {i : Instr} {s : State} (h : isArithmetic i = true) (hN : s.val .N ≠ 0) :
    exec i s = .next (s.writeResult (s.commandResult i) (s.commandGe i)).finish := by
  rw [exec_of_isArithmetic h, State.arithmetic_of_ne hN]

theorem exec_arithmetic_of_zero {i : Instr} {s : State} (h : isArithmetic i = true) (hN : s.val .N = 0) :
    exec i s = .next (s.raiseError .modZero) := by
  rw [exec_of_isArithmetic h, State.arithmetic_of_zero hN]

/-- A command is an arithmetic one, which tests the modulus, or a move or control command, which does not. -/
theorem exec_cases (i : Instr) (s : State) :
    (isArithmetic i = true ∧ s.val .N = 0 ∧ exec i s = .next (s.raiseError .modZero)) ∨
      (isArithmetic i = true ∧ s.val .N ≠ 0 ∧
        exec i s = .next (s.writeResult (s.commandResult i) (s.commandGe i)).finish) ∨
      (isArithmetic i = false ∧ exec i s = .next (s.moved i).finish) := by
  cases hi : isArithmetic i with
  | false => exact .inr (.inr ⟨rfl, exec_of_not_isArithmetic hi s⟩)
  | true =>
    by_cases hN : s.val .N = 0
    · exact .inl ⟨rfl, hN, exec_arithmetic_of_zero hi hN⟩
    · exact .inr (.inl ⟨rfl, hN, exec_arithmetic_of_ne hi hN⟩)

theorem modexpStep_lt {n : Nat} (hn : 0 < n) (a e j r : Nat) : modexpStep a e n j r < n := by
  unfold modexpStep
  split <;> exact Nat.mod_lt _ hn

theorem modexpLoop_lt {a e n : Nat} (hn : 0 < n) {j r : Nat} (hr : r < n) : modexpLoop a e n j r < n := by
  induction j generalizing r with
  | zero => exact hr
  | succ j ih => exact ih (modexpStep_lt hn a e j r)

theorem State.commandResult_lt {s : State} (h : s.val .N ≠ 0) (i : Instr) : s.commandResult i < s.val .N := by
  have hN : 0 < s.val .N := Nat.pos_of_ne_zero h
  cases i with
  | modexp => exact modexpLoop_lt hN (Nat.mod_lt _ hN)
  | modmul | modsqr | modred => exact Nat.mod_lt _ hN
  | nop | movra | movrb | clr => exact hN

theorem State.commandResult_lt_two_pow {s : State} (hlen : (s.bank .N).length = s.k) (h : s.val .N ≠ 0)
    (i : Instr) : s.commandResult i < 2 ^ (32 * s.k) :=
  (s.commandResult_lt h i).trans (s.val_lt .N hlen)

section ReadRegisters

variable {s s' : State} {i : Instr}

/-- The operand registers that a command reads agree in two states (10_state.md R26). -/
def agreeOnReads (i : Instr) (s s' : State) : Prop := ∀ x, readsBank i x = true → s.bank x = s'.bank x

theorem agreeOnReads.val (h : agreeOnReads i s s') {x : Bank} (hx : readsBank i x = true) : s.val x = s'.val x :=
  congrArg valueOf (h x hx)

theorem readsBank_N (h : isArithmetic i = true) : readsBank i .N = true := by
  cases i with
  | modexp | modmul | modsqr | modred => rfl
  | nop | movra | movrb | clr => cases h

theorem agreeOnReads.commandResult (hk : s.k = s'.k) (h : agreeOnReads i s s') :
    s.commandResult i = s'.commandResult i := by
  cases i with
  | modexp => simp only [State.commandResult, State.nbits, hk, h.val (x := .A) rfl, h.val (x := .E) rfl, h.val (x := .N) rfl]
  | modmul => simp only [State.commandResult, h.val (x := .A) rfl, h.val (x := .B) rfl, h.val (x := .N) rfl]
  | modsqr | modred => simp only [State.commandResult, h.val (x := .A) rfl, h.val (x := .N) rfl]
  | nop | movra | movrb | clr => rfl

theorem agreeOnReads.commandGe (h : agreeOnReads i s s') : s.commandGe i = s'.commandGe i := by
  cases i with
  | modexp | modsqr | modred => simp only [State.commandGe, h.val (x := .A) rfl, h.val (x := .N) rfl]
  | modmul => simp only [State.commandGe, h.val (x := .A) rfl, h.val (x := .B) rfl, h.val (x := .N) rfl]
  | nop | movra | movrb | clr => rfl

end ReadRegisters

section Moved

variable (s : State) (i : Instr)

@[simp] theorem State.moved_k : (s.moved i).k = s.k := by cases i <;> rfl
@[simp] theorem State.moved_cmdreg : (s.moved i).cmdreg = s.cmdreg := by cases i <;> rfl
@[simp] theorem State.moved_status : (s.moved i).status = s.status := by cases i <;> rfl
@[simp] theorem State.moved_ie : (s.moved i).ie = s.ie := by cases i <;> rfl
@[simp] theorem State.moved_resets : (s.moved i).resets = s.resets := by cases i <;> rfl
@[simp] theorem State.moved_schedule : (s.moved i).schedule = s.schedule := by cases i <;> rfl
@[simp] theorem State.moved_responses : (s.moved i).responses = s.responses := by cases i <;> rfl

end Moved

theorem State.moved_bank_of_not_writes (s : State) {i : Instr} {x : Bank} (h : writesBank i x = false) :
    (s.moved i).bank x = s.bank x := by
  cases i with
  | movra => exact State.setBank_bank_ne s .A x _ (by rintro rfl; cases h)
  | movrb => exact State.setBank_bank_ne s .B x _ (by rintro rfl; cases h)
  | clr => cases h
  | nop | modexp | modmul | modsqr | modred => rfl

theorem agreeOnReads.moved_bank {s s' : State} {i : Instr} {x : Bank} (hk : s.k = s'.k) (h : agreeOnReads i s s')
    (hi : isArithmetic i = false) (hx : writesBank i x = true) : (s.moved i).bank x = (s'.moved i).bank x := by
  cases i with
  | movra =>
    obtain rfl : x = .A := by simpa [writesBank] using hx
    exact h .R rfl
  | movrb =>
    obtain rfl : x = .B := by simpa [writesBank] using hx
    exact h .R rfl
  | clr => simp [State.moved, hk]
  | nop => cases hx
  | modexp | modmul | modsqr | modred => cases hi

theorem State.length_setBank_bank (s : State) {ws : List Word} {y : Bank} (h : ∀ x, (s.bank x).length = s.k)
    (hws : ws.length = s.k) (x : Bank) : ((s.setBank y ws).bank x).length = s.k := by
  by_cases hx : x = y
  · rw [hx, State.setBank_bank, hws]
  · rw [State.setBank_bank_ne s y x ws hx, h]

theorem State.length_writeResult_bank {s : State} (h : ∀ x, (s.bank x).length = s.k) (r : Nat) (ge : Bool)
    (x : Bank) : ((s.writeResult r ge).bank x).length = s.k :=
  s.length_setBank_bank h (length_wordsOf s.k r) x

theorem State.length_moved_bank {s : State} (h : ∀ x, (s.bank x).length = s.k) (i : Instr) (x : Bank) :
    ((s.moved i).bank x).length = s.k := by
  cases i with
  | movra => exact s.length_setBank_bank h (h .R) x
  | movrb => exact s.length_setBank_bank h (h .R) x
  | clr => simp [State.moved]
  | nop | modexp | modmul | modsqr | modred => exact h x

/-- What every completion leaves alone, and the two fields every completion sets (10_state.md R26, R48). -/
structure CompletionFrame (s t : State) : Prop where
  k : t.k = s.k
  cmdreg : t.cmdreg = s.cmdreg
  ie : t.ie = s.ie
  resets : t.resets = s.resets
  schedule : t.schedule = s.schedule
  responses : t.responses = s.responses
  accerr : t.status.accerr = s.status.accerr
  busy : t.status.busy = false
  done : t.status.done = true

theorem completionFrame_raiseError (s : State) (c : ErrorCode) : CompletionFrame s (s.raiseError c) :=
  ⟨rfl, rfl, rfl, rfl, rfl, rfl, rfl, rfl, rfl⟩

theorem completionFrame_writeResult (s : State) (r : Nat) (ge : Bool) :
    CompletionFrame s (s.writeResult r ge).finish :=
  ⟨rfl, rfl, rfl, rfl, rfl, rfl, rfl, rfl, rfl⟩

theorem completionFrame_moved (s : State) (i : Instr) : CompletionFrame s (s.moved i).finish := by
  constructor <;> simp [Status.finished]

theorem exec_frame (i : Instr) (s : State) : ∃ t, exec i s = .next t ∧ CompletionFrame s t := by
  obtain ⟨-, -, h⟩ | ⟨-, -, h⟩ | ⟨-, h⟩ := exec_cases i s
  · exact ⟨_, h, completionFrame_raiseError s .modZero⟩
  · exact ⟨_, h, completionFrame_writeResult s _ _⟩
  · exact ⟨_, h, completionFrame_moved s i⟩

theorem executeCommand_frame (s : State) : ∃ t, executeCommand s = .next t ∧ CompletionFrame s t := by
  obtain ⟨i, -, h⟩ | ⟨e, -, h⟩ := executeCommand_cases s
  · exact h ▸ exec_frame i s
  · exact ⟨_, h, completionFrame_raiseError s .illegalCmd⟩

theorem completionFrame_of_executeCommand {s t : State} (h : executeCommand s = .next t) : CompletionFrame s t := by
  obtain ⟨t', ht', hframe⟩ := executeCommand_frame s
  cases ht'.symm.trans h
  exact hframe

theorem writesBank_of_isArithmetic {i : Instr} (h : isArithmetic i = true) (x : Bank) :
    writesBank i x = (x == .R) := by
  cases i with
  | modexp | modmul | modsqr | modred => rfl
  | nop | movra | movrb | clr => cases h

theorem exec_bank_of_not_writes {s t : State} {i : Instr} {x : Bank} (h : exec i s = .next t)
    (hx : writesBank i x = false) : t.bank x = s.bank x := by
  obtain ⟨-, -, ht⟩ | ⟨hi, -, ht⟩ | ⟨-, ht⟩ := exec_cases i s <;> cases ht.symm.trans h
  · simp
  · have hR : x ≠ .R := by simpa [writesBank_of_isArithmetic hi] using hx
    simp [State.writeResult_bank_ne _ _ _ hR]
  · simp [State.moved_bank_of_not_writes s hx]

theorem exec_keeps_warnings {s t : State} {i : Instr} (h : exec i s = .next t)
    (hi : ¬ (isArithmetic i = true ∧ s.val .N ≠ 0)) :
    t.status.ge = s.status.ge ∧ t.status.z = s.status.z := by
  obtain ⟨-, -, ht⟩ | ⟨harith, hN, -⟩ | ⟨-, ht⟩ := exec_cases i s
  · cases ht.symm.trans h
    exact ⟨rfl, rfl⟩
  · exact absurd ⟨harith, hN⟩ hi
  · cases ht.symm.trans h
    simp [Status.finished]

end Sys2Proof.Machine

/-! What a step does, by the event whose turn it is, and what can have happened when a step answers a state
(20_memory.md R76, 10_state.md R48). -/

namespace Sys2Proof.Machine

theorem step_of_engineTurn {s : State} (h : s.engineTurn) : step s = completionTurn s.turnTaken := by
  obtain h | ⟨rest, h⟩ := h
  · simp only [step, h, State.turnTaken, List.tail_nil]
    rw [← h]
  · simp [step, h, takeEvent, State.turnTaken]

theorem step_of_head {s : State} {ev : Event} (h : s.schedule.head? = some ev) :
    step s = takeEvent s.turnTaken ev := by
  obtain ⟨rest, hs⟩ := List.head?_eq_some_iff.1 h
  simp [step, hs, State.turnTaken]

theorem step_withEvents (s : State) (ev : Event) : step (s.withEvents [ev]) = takeEvent s ev := rfl

theorem step_busy {s : State} (hturn : s.engineTurn) (hbusy : s.status.busy = true) :
    step s = executeCommand s.turnTaken := by
  rw [step_of_engineTurn hturn]
  exact if_pos hbusy

theorem step_idle {s : State} (hturn : s.engineTurn) (hbusy : s.status.busy = false) :
    step s = .next s.turnTaken := by
  rw [step_of_engineTurn hturn]
  exact if_neg (by simp [hbusy])

theorem executeCommand_of_decode {s : State} {i : Instr} (h : decode s.cmdreg = .ok i) :
    executeCommand s = exec i s := by
  simp [executeCommand, h]

theorem step_command {s : State} {i : Instr} (hturn : s.engineTurn) (hbusy : s.status.busy = true)
    (hi : s.cmdreg = encode i) : step s = exec i s.turnTaken := by
  rw [step_busy hturn hbusy]
  exact executeCommand_of_decode (decode_eq_ok_iff.2 hi)

theorem takeEvent_write {s : State} {off : Offset} {l : Location} (v : Word) (h : locate s.k off 4 = some l) :
    takeEvent s (.write off 4 v) = .next ((writeLocation s v l).respond .ok) := by
  simp [takeEvent, busWrite, busWriteResponse, h]

theorem step_withEvents_write {s : State} {off : Offset} {l : Location} (v : Word)
    (h : locate s.k off 4 = some l) :
    step (s.withEvents [.write off 4 v]) = .next ((writeLocation s v l).respond .ok) :=
  (step_withEvents s _).trans (takeEvent_write v h)

theorem step_write {s : State} {off : Offset} {v : Word} {l : Location}
    (h : s.schedule.head? = some (.write off 4 v)) (hl : locate s.k off 4 = some l) :
    step s = .next ((writeLocation s.turnTaken v l).respond .ok) := by
  rw [step_of_head h]
  exact takeEvent_write v hl

theorem step_write_status {s : State} {v : Word} (h : s.schedule.head? = some (.write statusOffset 4 v)) :
    step s = .next ((s.turnTaken.writeStatus v).respond .ok) :=
  step_write h (locate_statusOffset s.k)

theorem step_accept {s : State} {v : Word} (h : s.schedule.head? = some (.write cmdOffset 4 v))
    (hbusy : s.status.busy = false) : step s = .next ((s.turnTaken.accept v).respond .ok) := by
  rw [step_write h (locate_cmdOffset s.k)]
  simp [writeLocation, hbusy]

theorem step_reset {s : State} (h : s.schedule.head? = some .reset) : step s = .next (applyReset s.turnTaken) :=
  step_of_head h

/-- A write to the mapped word is refused (20_memory.md R71). -/
def refusesWrite (s : State) (l : Location) : Prop :=
  l = .id ∨ l = .param ∨ (l = .cmd ∧ s.status.busy = true) ∨
    ∃ x i, l = .operand x i ∧ (s.status.busy = true ∨ x = .R)

/-- What can have happened in a step from `s`, and the state it then answers. -/
inductive StepEffect (s : State) : State → Prop where
  /-- A completion step (10_state.md R48). -/
  | completion {t : State} (turn : s.engineTurn) (busy : s.status.busy = true)
      (run : executeCommand s.turnTaken = .next t) : StepEffect s t
  /-- The turn of the idle engine (log 3). -/
  | idleTurn (turn : s.engineTurn) (idle : s.status.busy = false) : StepEffect s s.turnTaken
  /-- A read, or a write answered `ERROR`: no register changes (20_memory.md R68, R70). -/
  | answer (r : Response) : StepEffect s (s.turnTaken.respond r)
  /-- A refused write (20_memory.md R71). -/
  | refusal (off : Offset) (v : Word) (l : Location) (head : s.schedule.head? = some (.write off 4 v))
      (located : locate s.k off 4 = some l) (refused : refusesWrite s l) :
      StepEffect s (s.turnTaken.refuseWrite.respond .ok)
  /-- The acceptance of a command word (10_state.md R49). -/
  | acceptance (v : Word) (head : s.schedule.head? = some (.write cmdOffset 4 v)) (idle : s.status.busy = false) :
      StepEffect s ((s.turnTaken.accept v).respond .ok)
  /-- A write of `STATUS` (10_state.md R32). -/
  | statusWrite (v : Word) (head : s.schedule.head? = some (.write statusOffset 4 v)) :
      StepEffect s ((s.turnTaken.writeStatus v).respond .ok)
  /-- A write of `CTRL` (10_state.md R41). -/
  | ctrlWrite (v : Word) (head : s.schedule.head? = some (.write ctrlOffset 4 v)) :
      StepEffect s ((s.turnTaken.writeCtrl v).respond .ok)
  /-- A write of an operand word, with the engine idle (20_memory.md R71). -/
  | operandWrite (off : Offset) (v : Word) (x : Bank) (i : Nat) (head : s.schedule.head? = some (.write off 4 v))
      (located : isWordOffset s.k off x i) (idle : s.status.busy = false) (writable : x ≠ .R) :
      StepEffect s ((s.turnTaken.setWord x i v).respond .ok)
  /-- A reset (70_reset_and_hazards.md R231). -/
  | reset (head : s.schedule.head? = some .reset) : StepEffect s (applyReset s.turnTaken)

theorem stepEffect_of_writeLocation {s : State} {off : Offset} {v : Word} {l : Location}
    (h : s.schedule.head? = some (.write off 4 v)) (hl : locate s.k off 4 = some l) :
    StepEffect s ((writeLocation s.turnTaken v l).respond .ok) := by
  cases l with
  | id => exact .refusal off v _ h hl (.inl rfl)
  | param => exact .refusal off v _ h hl (.inr (.inl rfl))
  | cmd =>
    obtain rfl := eq_cmdOffset_of_locate hl
    cases hbusy : s.status.busy with
    | false => simpa [writeLocation, hbusy] using StepEffect.acceptance v h hbusy
    | true => simpa [writeLocation, hbusy] using StepEffect.refusal _ v _ h hl (.inr (.inr (.inl ⟨rfl, hbusy⟩)))
  | status =>
    obtain rfl := eq_statusOffset_of_locate hl
    exact .statusWrite v h
  | ctrl =>
    obtain rfl := eq_ctrlOffset_of_locate hl
    exact .ctrlWrite v h
  | operand x i =>
    by_cases hrefused : s.status.busy = true ∨ x = .R
    · have hcond : (s.status.busy || !x.hostWritable) = true := by simpa [Bank.hostWritable_eq_false] using hrefused
      have heffect := StepEffect.refusal off v _ h hl (.inr (.inr (.inr ⟨x, i, rfl, hrefused⟩)))
      simpa [writeLocation, hcond] using heffect
    · have hcond : (s.status.busy || !x.hostWritable) = false := by
        simpa [← Bank.hostWritable_eq_false] using hrefused
      rw [not_or, Bool.not_eq_true] at hrefused
      have heffect := StepEffect.operandWrite off v x i h (isWordOffset_of_locate hl) hrefused.1 hrefused.2
      simpa [writeLocation, hcond] using heffect

theorem stepEffect_of_write {s t : State} {off : Offset} {size : Nat} {v : Word}
    (hhead : s.schedule.head? = some (.write off size v)) (h : step s = .next t) : StepEffect s t := by
  rw [step_of_head hhead] at h
  cases h
  obtain ⟨-, hsame, hanswer⟩ | ⟨l, hl, heffect, hanswer⟩ := busWrite_cases s.turnTaken off size v <;> rw [hanswer]
  · rw [hsame]
    exact .answer .error
  · rw [heffect]
    obtain ⟨rfl, -⟩ := locate_eq_some hl
    exact stepEffect_of_writeLocation hhead hl

theorem stepEffect_of_step {s t : State} (h : step s = .next t) : StepEffect s t := by
  obtain ⟨hturn, -⟩ | ⟨off, size, rest, hs, -⟩ | ⟨off, size, v, rest, hs, -⟩ | ⟨rest, hs, -⟩ := step_cases s
  · cases hbusy : s.status.busy with
    | true => exact .completion hturn hbusy (step_busy hturn hbusy ▸ h)
    | false =>
      cases (step_idle hturn hbusy).symm.trans h
      exact .idleTurn hturn hbusy
  · rw [step_of_head (by rw [hs]; rfl)] at h
    cases h
    exact .answer _
  · exact stepEffect_of_write (by rw [hs]; rfl) h
  · cases (step_reset (by rw [hs]; rfl)).symm.trans h
    exact .reset (by rw [hs]; rfl)

theorem exists_step (s : State) : ∃ t, step s = .next t := by
  obtain ⟨hturn, -⟩ | ⟨_, _, _, -, h⟩ | ⟨_, _, _, _, -, h⟩ | ⟨_, -, h⟩ := step_cases s
  · cases hbusy : s.status.busy with
    | true =>
      obtain ⟨t, ht, -⟩ := executeCommand_frame s.turnTaken
      exact ⟨t, (step_busy hturn hbusy).trans ht⟩
    | false => exact ⟨_, step_idle hturn hbusy⟩
  · exact ⟨_, h⟩
  · exact ⟨_, h⟩
  · exact ⟨_, h⟩

theorem step_keeps_k {s t : State} (h : step s = .next t) : t.k = s.k := by
  cases stepEffect_of_step h with
  | completion _ _ run => exact (completionFrame_of_executeCommand run).k
  | operandWrite | idleTurn | answer | refusal | acceptance | statusWrite | ctrlWrite | reset => simp

end Sys2Proof.Machine

/-! The invariant of the engine's state: it holds after reset and every step keeps it. -/

namespace Sys2Proof.Machine

/-- With the flags of the last command clear, the invariant asks only for `K` and the number of words. -/
theorem State.inv_of_flags_clear {s : State} (hk : 1 ≤ s.k ∧ s.k ≤ 128) (hlen : ∀ x, (s.bank x).length = s.k)
    (hdone : s.status.busy = true → s.status.done = false) (herr : s.status.err = false)
    (hcode : s.status.ecode = .none) (hge : s.status.ge = false) (hz : s.status.z = false) : s.Inv where
  kLegal := hk
  bankLength := hlen
  errIffCode := by simp [herr, hcode]
  busyClear hbusy := ⟨hdone hbusy, herr, hge, hz⟩
  errClear _ := ⟨hge, hz⟩
  zResult h := by simp [hz] at h
  illegalCause h := by simp [hcode] at h
  modZeroCause h := by simp [hcode] at h
  warnCause h := by simp [hge, hz] at h

/-- A change of `DONE`, `ACCERR` and operand words other than those of `R` keeps the invariant, so long as `DONE`
does not rise. -/
theorem State.Inv.of_flags_kept {s t : State} (h : s.Inv) (hk : t.k = s.k)
    (hlen : ∀ x, (t.bank x).length = (s.bank x).length) (hR : t.bank .R = s.bank .R) (hcmd : t.cmdreg = s.cmdreg)
    (hstatus : t.status = { s.status with done := t.status.done, accerr := t.status.accerr })
    (hdone : s.status.done = false → t.status.done = false) : t.Inv := by
  obtain ⟨hbusy, herr, hge, hz, hcode⟩ : t.status.busy = s.status.busy ∧ t.status.err = s.status.err ∧
      t.status.ge = s.status.ge ∧ t.status.z = s.status.z ∧ t.status.ecode = s.status.ecode := by
    rw [hstatus]
    simp
  have hval : t.val .R = s.val .R := congrArg valueOf hR
  constructor
  case kLegal => exact hk ▸ h.kLegal
  case bankLength => exact fun x => by rw [hlen, h.bankLength, hk]
  case errIffCode => rw [herr, hcode]; exact h.errIffCode
  case busyClear =>
    rw [hbusy, herr, hge, hz]
    exact fun hb => ⟨hdone (h.busyClear hb).1, (h.busyClear hb).2⟩
  case errClear => rw [herr, hge, hz]; exact h.errClear
  case zResult => rw [hz, hval]; exact h.zResult
  case illegalCause => rw [hcode, hcmd]; exact h.illegalCause
  case modZeroCause => rw [hcode, hcmd]; exact h.modZeroCause
  case warnCause => rw [hge, hz, hcmd]; exact h.warnCause

theorem State.Inv.turnTaken {s : State} (h : s.Inv) : s.turnTaken.Inv :=
  h.of_flags_kept rfl (by simp) (by simp) rfl rfl id

theorem State.Inv.respond {s : State} (h : s.Inv) (r : Response) : (s.respond r).Inv :=
  h.of_flags_kept rfl (by simp) (by simp) rfl rfl id

theorem State.Inv.refuseWrite {s : State} (h : s.Inv) : s.refuseWrite.Inv :=
  h.of_flags_kept rfl (by simp) (by simp) rfl rfl id

theorem State.Inv.writeCtrl {s : State} (h : s.Inv) (v : Word) : (s.writeCtrl v).Inv :=
  h.of_flags_kept rfl (by simp) (by simp) rfl rfl id

theorem State.Inv.writeStatus {s : State} (h : s.Inv) (v : Word) : (s.writeStatus v).Inv :=
  h.of_flags_kept rfl (by simp) (by simp) rfl rfl fun hd => by simp [Status.writeOneToClear, hd]

theorem State.Inv.setWord {s : State} (h : s.Inv) {x : Bank} (hx : x ≠ .R) (i : Nat) (v : Word) :
    (s.setWord x i v).Inv :=
  h.of_flags_kept (by simp) (fun y => s.length_setWord_bank x y i v) (State.setBank_bank_ne s x .R _ hx.symm)
    (by simp) (by simp) (by simp)

theorem State.Inv.accept {s : State} (h : s.Inv) (v : Word) : (s.accept v).Inv :=
  State.inv_of_flags_clear h.kLegal (by simpa using h.bankLength) (fun _ => rfl) rfl rfl rfl rfl

theorem State.Inv.applyReset {s : State} (h : s.Inv) : (applyReset s).Inv :=
  State.inv_of_flags_clear h.kLegal (by simp [resetBank]) (fun _ => rfl) rfl rfl rfl rfl

theorem legalK_iff {k : Nat} : legalK k = true ↔ 1 ≤ k ∧ k ≤ 128 := by
  rw [legalK, Bool.and_eq_true, decide_eq_true_iff, decide_eq_true_iff]
  rfl

theorem State.inv_resetOf {k : Nat} (hk : legalK k = true) : (State.resetOf k).Inv := by
  refine State.inv_of_flags_clear (legalK_iff.1 hk) (fun x => ?_) (fun _ => rfl) rfl rfl rfl rfl
  cases x <;> exact List.length_replicate

section Completion

variable {s : State}

theorem State.Inv.ecode_of_busy (h : s.Inv) (hbusy : s.status.busy = true) : s.status.ecode = .none := by
  have herr := (h.busyClear hbusy).2.1
  by_contra hcode
  simp [h.errIffCode.2 hcode] at herr

/-- The error entry of a busy engine keeps the invariant, when the code reports its cause. -/
theorem State.Inv.raiseError (h : s.Inv) (hbusy : s.status.busy = true) {c : ErrorCode} (hc : c ≠ .none)
    (hillegal : c = .illegalCmd → ¬ legalWord s.cmdreg)
    (hmodZero : c = .modZero → ∃ i, isArithmetic i = true ∧ s.cmdreg = encode i) : (s.raiseError c).Inv := by
  obtain ⟨-, -, hge, hz⟩ := h.busyClear hbusy
  constructor
  case kLegal => exact h.kLegal
  case bankLength => simpa using h.bankLength
  case errIffCode => simp [Status.finished, hc]
  case busyClear => simp [Status.finished]
  case errClear => exact fun _ => ⟨hge, hz⟩
  case zResult => simp [Status.finished, hz]
  case illegalCause => exact hillegal
  case modZeroCause => exact hmodZero
  case warnCause => simp [Status.finished, hge, hz]

theorem State.Inv.moved_finish (h : s.Inv) (hbusy : s.status.busy = true) (i : Instr) : (s.moved i).finish.Inv := by
  obtain ⟨-, herr, hge, hz⟩ := h.busyClear hbusy
  have hcode := h.ecode_of_busy hbusy
  exact State.inv_of_flags_clear (by simpa using h.kLegal) (by simpa using State.length_moved_bank h.bankLength i)
    (by simp [Status.finished]) (by simpa [Status.finished] using herr) (by simpa [Status.finished] using hcode)
    (by simpa [Status.finished] using hge) (by simpa [Status.finished] using hz)

theorem State.Inv.writeResult_finish (h : s.Inv) (hbusy : s.status.busy = true) {i : Instr}
    (hi : isArithmetic i = true) (hcmd : s.cmdreg = encode i) {r : Nat} (hr : r < 2 ^ (32 * s.k)) (ge : Bool) :
    (s.writeResult r ge).finish.Inv := by
  obtain ⟨-, herr, -, -⟩ := h.busyClear hbusy
  have hcode := h.ecode_of_busy hbusy
  constructor
  case kLegal => exact h.kLegal
  case bankLength => simpa using State.length_writeResult_bank h.bankLength r ge
  case errIffCode => simp [Status.finished, herr, hcode]
  case busyClear => simp [Status.finished]
  case errClear => simp [Status.finished, herr]
  case zResult => simp [Status.finished, zOf, State.writeResult_val_R ge hr]
  case illegalCause => simp [Status.finished, hcode]
  case modZeroCause => simp [Status.finished, hcode]
  case warnCause => exact fun _ => ⟨i, hi, hcmd⟩

theorem State.Inv.exec {t : State} {i : Instr} (h : s.Inv) (hbusy : s.status.busy = true) (hcmd : s.cmdreg = encode i)
    (ht : exec i s = .next t) : t.Inv := by
  obtain ⟨hi, -, hs⟩ | ⟨hi, hN, hs⟩ | ⟨-, hs⟩ := exec_cases i s <;> cases hs.symm.trans ht
  · exact h.raiseError hbusy (by decide) (fun hc => by cases hc) fun _ => ⟨i, hi, hcmd⟩
  · exact h.writeResult_finish hbusy hi hcmd (State.commandResult_lt_two_pow (h.bankLength .N) hN i) _
  · exact h.moved_finish hbusy i

theorem State.Inv.executeCommand {t : State} (h : s.Inv) (hbusy : s.status.busy = true)
    (ht : executeCommand s = .next t) : t.Inv := by
  obtain ⟨i, hi, hs⟩ | ⟨e, he, hs⟩ := executeCommand_cases s
  · exact h.exec hbusy (decode_eq_ok_iff.1 hi) (hs.symm.trans ht)
  · cases hs.symm.trans ht
    exact h.raiseError hbusy (by decide) (fun _ => not_legalWord_of_decode_error he) fun hc => by cases hc

end Completion

end Sys2Proof.Machine

/-! Who writes `GE`, `Z` and an operand register (10_state.md R26, R36, R37). -/

namespace Sys2Proof.Machine

theorem State.commandGe_of_isArithmetic (s : State) {i : Instr} (h : isArithmetic i = true) :
    (i ≠ .modmul → s.commandGe i = decide (s.val .N ≤ s.val .A)) ∧
      (i = .modmul → s.commandGe i = decide (s.val .N ≤ s.val .A ∨ s.val .N ≤ s.val .B)) := by
  cases i with
  | modexp | modsqr | modred => exact ⟨fun _ => rfl, fun hmul => by cases hmul⟩
  | modmul => exact ⟨fun hne => absurd rfl hne, fun _ => (Bool.decide_or _ _).symm⟩
  | nop | movra | movrb | clr => cases h

/-- A completion that is not the normal end of an arithmetic command leaves `GE` and `Z` as they are. -/
theorem executeCommand_keeps_warnings {s t : State} (h : executeCommand s = .next t)
    (hcmd : ¬ ∃ i, s.cmdreg = encode i ∧ isArithmetic i = true ∧ s.val .N ≠ 0) :
    t.status.ge = s.status.ge ∧ t.status.z = s.status.z := by
  obtain ⟨i, hi, hs⟩ | ⟨e, -, hs⟩ := executeCommand_cases s
  · exact exec_keeps_warnings (hs.symm.trans h) fun harith => hcmd ⟨i, decode_eq_ok_iff.1 hi, harith⟩
  · cases hs.symm.trans h
    exact ⟨rfl, rfl⟩

/-- The normal end of an arithmetic command on the engine: `GE` of its operands, and `Z` of the new `R` (10_state.md R36, R37). -/
theorem warnings_of_arithmetic_step {s t : State} (hinv : s.Inv) (hturn : s.engineTurn) (hbusy : s.status.busy = true)
    (h : step s = .next t) {i : Instr} (hcmd : s.cmdreg = encode i) (hi : isArithmetic i = true) (hN : s.val .N ≠ 0) :
    t.status.ge = s.turnTaken.commandGe i ∧ t.status.z = decide (t.val .R = 0) := by
  have hN' : s.turnTaken.val .N ≠ 0 := by simpa using hN
  have hfits := State.commandResult_lt_two_pow (hinv.turnTaken.bankLength .N) hN' i
  rw [step_command hturn hbusy hcmd, exec_arithmetic_of_ne hi hN'] at h
  cases h
  exact ⟨rfl, by rw [State.finish_val, State.writeResult_val_R _ hfits]; rfl⟩

/-- Only a completion, an acceptance and a reset write `GE` and `Z` (10_state.md R36, R37). -/
theorem step_keeps_warnings {s t : State} (h : step s = .next t) (hturn : ¬ (s.engineTurn ∧ s.status.busy = true))
    (hcmd : ∀ v, s.schedule.head? ≠ some (.write cmdOffset 4 v)) (hreset : s.schedule.head? ≠ some .reset) :
    t.status.ge = s.status.ge ∧ t.status.z = s.status.z := by
  cases stepEffect_of_step h with
  | completion turn busy => exact absurd ⟨turn, busy⟩ hturn
  | acceptance v head => exact absurd head (hcmd v)
  | reset head => exact absurd head hreset
  | idleTurn | answer | refusal | statusWrite | ctrlWrite | operandWrite => simp [Status.writeOneToClear]

/-- A completion that changes an operand register is of a command that writes it. -/
theorem writesBank_of_executeCommand {s t : State} {x : Bank} (h : executeCommand s = .next t)
    (hx : t.bank x ≠ s.bank x) : ∃ i, s.cmdreg = encode i ∧ writesBank i x = true := by
  obtain ⟨i, hi, hs⟩ | ⟨e, -, hs⟩ := executeCommand_cases s
  · refine ⟨i, decode_eq_ok_iff.1 hi, ?_⟩
    by_contra hkeep
    exact hx (exec_bank_of_not_writes (hs.symm.trans h) (Bool.not_eq_true _ ▸ hkeep))
  · cases hs.symm.trans h
    simp at hx

theorem eq_of_setWord_bank_ne {s : State} {x y : Bank} {i : Nat} {v : Word}
    (h : (s.setWord x i v).bank y ≠ s.bank y) : y = x := by
  by_contra hne
  exact h (State.setBank_bank_ne s x y _ hne)

end Sys2Proof.Machine

namespace Sys2Proof.Proofs

open Sys2Proof.Machine

/-- Settles O43: each thing that can happen in a step keeps the invariant. -/
theorem everyStepKeepsTheInvariant : Obligations.EveryStepKeepsTheInvariant := by
  intro s t hinv h
  have hturn := hinv.turnTaken
  cases stepEffect_of_step h with
  | completion _ busy run => exact hturn.executeCommand busy run
  | idleTurn => exact hturn
  | answer r => exact hturn.respond r
  | refusal => exact hturn.refuseWrite.respond _
  | acceptance v => exact (hturn.accept v).respond _
  | statusWrite v => exact (hturn.writeStatus v).respond _
  | ctrlWrite v => exact (hturn.writeCtrl v).respond _
  | operandWrite _ v x i _ _ _ writable => exact (hturn.setWord writable i v).respond _
  | reset => exact hturn.applyReset

/-- Settles O20: the result is a remainder, so it is below `val(N)` and keeps all its bits in the `K` words of `R`. -/
theorem resultIsBelowTheModulus : Obligations.ResultIsBelowTheModulus := by
  intro s i hinv hi hN
  have hlt := State.commandResult_lt hN i
  have hfits := State.commandResult_lt_two_pow (hinv.bankLength .N) hN i
  refine ⟨_, exec_arithmetic_of_ne hi hN, ?_, rfl, by simp, rfl⟩
  rw [State.finish_val, State.finish_val, State.writeResult_val_R _ hfits]
  exact hlt

/-- Settles O21: the frame of a completion, and the registers of each command. -/
theorem commandsTouchOnlyTheirRegisters : Obligations.CommandsTouchOnlyTheirRegisters := by
  intro s i
  obtain ⟨t, ht, hframe⟩ := exec_frame i s
  exact ⟨t, ht, fun x hx => exec_bank_of_not_writes ht hx, hframe.k, hframe.cmdreg, hframe.accerr, hframe.ie,
    hframe.resets, hframe.schedule, hframe.responses⟩

/-- Settles O22: an arithmetic command's result and `GE` are functions of what it reads, and a move or control command
keeps `STATUS` and copies `R` or writes zeros. -/
theorem commandsDependOnlyOnWhatTheyRead : Obligations.CommandsDependOnlyOnWhatTheyRead := by
  intro s s' i hk hstatus (hreads : agreeOnReads i s s')
  cases hi : isArithmetic i with
  | true =>
    have hN := hreads.val (readsBank_N hi)
    by_cases hzero : s.val .N = 0
    · refine ⟨_, _, exec_arithmetic_of_zero hi hzero, exec_arithmetic_of_zero hi (hN ▸ hzero), by simp [hstatus], ?_⟩
      intro herr
      cases herr
    · refine ⟨_, _, exec_arithmetic_of_ne hi hzero, exec_arithmetic_of_ne hi (hN ▸ hzero), ?_, fun _ x hx => ?_⟩
      · simp [hstatus, hreads.commandResult hk, hreads.commandGe]
      · obtain rfl : x = .R := by simpa [writesBank_of_isArithmetic hi] using hx
        simp [hk, hreads.commandResult hk]
  | false =>
    refine ⟨_, _, exec_of_not_isArithmetic hi s, exec_of_not_isArithmetic hi s', by simp [hstatus], fun _ x hx => ?_⟩
    rw [State.finish_bank, State.finish_bank, hreads.moved_bank hk hi hx]

/-- Settles O26: every completion has the one frame, whatever the command word. -/
theorem completionEnabledExactlyWhenBusy : Obligations.CompletionEnabledExactlyWhenBusy := by
  refine fun s hturn => ⟨fun hbusy => ?_, fun hbusy => step_idle hturn hbusy⟩
  obtain ⟨t, ht, hframe⟩ := executeCommand_frame s.turnTaken
  exact ⟨t, (step_busy hturn hbusy).trans ht, hframe.busy, hframe.done, hframe.cmdreg, hframe.accerr, hframe.ie⟩

/-- Settles O33: the writers of `GE` and `Z` are the completions, acceptance and reset. -/
theorem warningFlagsOfEachStep : Obligations.WarningFlagsOfEachStep := by
  intro s hinv
  obtain ⟨t, h⟩ := exists_step s
  refine ⟨t, h, fun hturn hbusy => ⟨fun i hcmd hi hN => ?_, fun hother => ?_⟩, fun v rest hs hbusy => ?_,
    fun rest hs => ?_, fun hturn hcmd hreset => ?_⟩
  · obtain ⟨hge, hz⟩ := warnings_of_arithmetic_step hinv hturn hbusy h hcmd hi hN
    rw [hge]
    exact ⟨hz, by simpa using s.turnTaken.commandGe_of_isArithmetic hi⟩
  · obtain ⟨hge, hz⟩ := executeCommand_keeps_warnings ((step_busy hturn hbusy).symm.trans h) (by simpa using hother)
    obtain ⟨-, -, hgeClear, hzClear⟩ := hinv.busyClear hbusy
    exact ⟨hge.trans hgeClear, hz.trans hzClear⟩
  · cases (step_accept (by rw [hs]; rfl) hbusy).symm.trans h
    exact ⟨rfl, rfl⟩
  · cases (step_reset (by rw [hs]; rfl)).symm.trans h
    exact ⟨rfl, rfl⟩
  · refine step_keeps_warnings h hturn (fun v hhead => ?_) fun hhead => ?_
    · obtain ⟨rest, hs⟩ := List.head?_eq_some_iff.1 hhead
      exact hcmd v rest hs
    · obtain ⟨rest, hs⟩ := List.head?_eq_some_iff.1 hhead
      exact hreset rest hs

/-- Settles O40: no step changes `K`, on which alone `PARAM` depends. -/
theorem idAndParamAreConstant : Obligations.IdAndParamAreConstant := by
  refine ⟨fun s t h => ⟨rfl, ?_⟩, fun s v off hoff => ?_, fun s hinv => ?_⟩
  · exact congrArg (fun k => Response.data (paramWord k)) (step_keeps_k h)
  · obtain rfl | rfl := hoff
    · exact step_withEvents_write v (locate_idOffset s.k)
    · exact step_withEvents_write v (locate_paramOffset s.k)
  · have hk : s.k < 256 := by have := hinv.kLegal.2; omega
    exact ⟨paramWord s.k, rfl, paramWord_fields hk⟩

/-- Settles O44: of the effects of a step, three can change a register, two `CMDREG` and two `IE`. -/
theorem registersPersist : Obligations.RegistersPersist := by
  intro s t h
  cases stepEffect_of_step h with
  | completion turn busy run =>
    have hframe := completionFrame_of_executeCommand run
    refine ⟨fun x hx => .inr (.inr ⟨turn, busy, ?_⟩), absurd hframe.cmdreg, absurd hframe.ie⟩
    exact writesBank_of_executeCommand (s := s.turnTaken) run (by simpa using hx)
  | idleTurn | answer | refusal | statusWrite => simp
  | acceptance v head idle => simpa using fun _ => .inr ⟨idle, head⟩
  | ctrlWrite v head => simpa using fun _ => .inr ⟨v, head, rfl⟩
  | operandWrite off v x i head located idle writable =>
    refine ⟨fun y hy => .inr (.inl ⟨off, v, i, head, ?_, idle, ?_⟩), by simp, by simp⟩ <;>
      obtain rfl := eq_of_setWord_bank_ne (s := s.turnTaken) (by simpa using hy)
    · exact located
    · exact writable
  | reset head => exact ⟨fun _ _ => .inl head, fun _ => .inl head, fun _ => .inl head⟩

/-- Settles O45: only a refused write sets `ACCERR`. -/
theorem accerrRecordsRefusedWrites : Obligations.AccerrRecordsRefusedWrites := by
  intro s t h
  cases stepEffect_of_step h with
  | completion _ _ run =>
    have hkept : t.status.accerr = s.status.accerr := (completionFrame_of_executeCommand run).accerr
    simp +contextual [hkept]
  | idleTurn | answer | acceptance | ctrlWrite | operandWrite => simp +contextual [Status.accepted]
  | refusal off v l head located refused => exact ⟨fun _ _ => ⟨off, v, l, head, located, refused⟩, fun _ => by simp⟩
  | statusWrite v head =>
    refine ⟨?_, fun hset hclear => .inr ⟨v, head, ?_⟩⟩
    · simp +contextual [Status.writeOneToClear]
    · simpa [Status.writeOneToClear, hset] using hclear
  | reset head => exact ⟨by simp [Status.clear], fun _ _ => .inl head⟩

/-- Settles O46: a completion has `DONE` in its frame, and of the other effects only three can clear it. -/
theorem doneRecordsCompletions : Obligations.DoneRecordsCompletions := by
  intro s t h
  refine ⟨fun hturn hbusy => ?_, fun hclear hset => ?_, fun hset hclear => ?_, fun v hhead hbit => ?_,
    fun v hhead hbusy => ?_, fun hhead => ?_, rfl⟩
  · exact (completionFrame_of_executeCommand ((step_busy hturn hbusy).symm.trans h)).done
  · cases stepEffect_of_step h with
    | completion turn busy => exact ⟨turn, busy⟩
    | idleTurn | answer | refusal | acceptance | statusWrite | ctrlWrite | operandWrite | reset =>
      simp [hclear, Status.accepted, Status.writeOneToClear, Status.clear] at hset
  · cases stepEffect_of_step h with
    | completion _ _ run =>
      rw [(completionFrame_of_executeCommand run).done] at hclear
      cases hclear
    | idleTurn | answer | refusal | ctrlWrite | operandWrite => simp [hset] at hclear
    | acceptance v head idle => exact .inr (.inr ⟨v, head, idle⟩)
    | statusWrite v head => exact .inr (.inl ⟨v, head, by simpa [Status.writeOneToClear, hset] using hclear⟩)
    | reset head => exact .inl head
  · cases (step_write_status hhead).symm.trans h
    simp [Status.writeOneToClear, hbit]
  · cases (step_accept hhead hbusy).symm.trans h
    rfl
  · cases (step_reset hhead).symm.trans h
    rfl

/-- Settles O25: a busy engine's turn is `executeCommand`, which runs what `CMDREG` decodes to. -/
theorem stepRunsTheDecodedCommand : Obligations.StepRunsTheDecodedCommand :=
  fun _ _ hturn hbusy hi => step_command hturn hbusy (decode_eq_ok_iff.1 hi)

/-- Settles O27: a completion answers a next state, and so does every other event. -/
theorem everyStepAnswersNext : Obligations.EveryStepAnswersNext := exists_step

/-- Settles O28: the word placed is the command's own, and its turn is next. -/
theorem placedWordIsRunNext : Obligations.PlacedWordIsRunNext := by
  intro s nbits w i h
  have hturn : (s.withFetchWord nbits w).engineTurn := .inr ⟨s.schedule, rfl⟩
  have hword := encode_of_decodeTableWord h
  refine ⟨(step_command hturn rfl hword.symm).trans ?_, rfl⟩
  rw [hword]
  rfl

/-- Settles O39: the fields of the word, and a read and a write at the offset of `STATUS`. -/
theorem statusLayoutAndWrite : Obligations.StatusLayoutAndWrite := by
  refine ⟨fun st => ?_, Status.word_clear, fun s => step_withEvents s _,
    fun s v => ⟨_, step_withEvents_write v (locate_statusOffset s.k), rfl, rfl⟩⟩
  obtain ⟨hbusy, hdone, herr, hge, hz, haccerr⟩ := st.word_bits
  exact ⟨hbusy, hdone, herr, hge, hz, haccerr, st.word_fields⟩

/-- Settles O42: after reset the flags are clear. -/
theorem resetStateMeetsTheInvariant : Obligations.ResetStateMeetsTheInvariant :=
  ⟨State.inv_resetOf (by decide), fun _ hk => State.inv_resetOf hk⟩

/-- Settles O48: the control words of cleared fields are 0, and `PARAM` is a number of at most 9 bits. -/
theorem resetStateReads : Obligations.ResetStateReads := by
  refine ⟨fun k hk s hs => ?_, by decide⟩
  have hle : k ≤ 128 := (legalK_iff.1 hk).2
  subst hs
  exact ⟨rfl, congrArg Response.data (paramWord_eq_ofNat (k := k) (by omega)), rfl,
    congrArg Response.data Status.word_clear, congrArg Response.data ctrlWord_false, rfl⟩

end Sys2Proof.Proofs

/-! Bytes of an operand register and of a message (20_memory.md R63 to R65, 48_host_rsa_flows.md R160). -/

namespace Sys2Proof.Machine

theorem toNat_byteLane (w : Word) (j : Nat) : (byteLane w j).toNat = w.toNat / 2 ^ (8 * j) % 256 := by
  rw [byteLane, bitField, BitVec.extractLsb'_toNat, Nat.shiftRight_eq_div_pow]

/-- Byte `b` of a register is the `b`th digit of its value in base `2^8`; past the last word both are 0. -/
theorem State.toNat_bankByte (s : State) (x : Bank) (b : Nat) :
    (s.bankByte x b).toNat = s.val x / 2 ^ (8 * b) % 256 := by
  have hlane : 8 * b = 32 * (b / 4) + 8 * (b % 4) := by omega
  have hword : 2 ^ 32 = 2 ^ (8 * (b % 4)) * 2 ^ (32 - 8 * (b % 4)) := by
    rw [← pow_add]
    congr 1
    omega
  have hbyte : 256 ∣ 2 ^ (32 - 8 * (b % 4)) := Nat.pow_dvd_pow 2 (m := 8) (by omega)
  rw [State.bankByte, toNat_byteLane, State.word, toNat_getD_eq_valueOf_digit, hword, Nat.mod_mul_right_div_self,
    Nat.mod_mod_of_dvd _ hbyte, Nat.div_div_eq_div_mul, ← pow_add, ← hlane, State.val]

/-- The bytes of a message are the digits of its integer in base 256, the first one the most significant. -/
theorem bytesToInt_eq_ofDigits (bs : List Byte) :
    bytesToInt bs = Nat.ofDigits 256 (bs.reverse.map BitVec.toNat) := by
  induction bs with
  | nil => rfl
  | cons b bs ih =>
    rw [bytesToInt, ih, List.reverse_cons, List.map_append, Nat.ofDigits_append, List.length_map, List.length_reverse,
      List.map_singleton, Nat.ofDigits_singleton]
    ring

theorem bytesToInt_lt (bs : List Byte) : bytesToInt bs < 256 ^ bs.length := by
  have hdigit : ∀ d ∈ bs.reverse.map BitVec.toNat, d < 256 := by
    intro d hd
    obtain ⟨b, -, rfl⟩ := List.mem_map.1 hd
    exact b.isLt
  simpa [bytesToInt_eq_ofDigits] using Nat.ofDigits_lt_base_pow_length (by decide) hdigit

theorem ofDigits_toNat_div_pow_mod (bs : List Byte) (b : Nat) :
    Nat.ofDigits 256 (bs.map BitVec.toNat) / 256 ^ b % 256 = (bs.getD b 0#8).toNat := by
  induction bs generalizing b with
  | nil => simp
  | cons c cs ih =>
    have hc := c.isLt
    rw [List.map_cons, Nat.ofDigits_cons]
    cases b with
    | zero =>
      rw [List.getD_cons_zero, pow_zero, Nat.div_one]
      omega
    | succ b =>
      rw [List.getD_cons_succ, ← ih, pow_succ', ← Nat.div_div_eq_div_mul]
      congr 2
      omega

/-- Byte `b` of a message's integer, counted from the least significant, is byte `b` from the end of the message. -/
theorem bytesToInt_div_pow_mod (bs : List Byte) (b : Nat) :
    bytesToInt bs / 256 ^ b % 256 = (bs.reverse.getD b 0#8).toNat := by
  rw [bytesToInt_eq_ofDigits, ofDigits_toNat_div_pow_mod]

/-- A register loaded with a message that fits it holds the message's bytes, last byte lowest, and 0 above them. -/
theorem State.bankByte_setVal_bytesToInt (s : State) (x : Bank) {bs : List Byte} (h : bs.length ≤ 4 * s.k) (b : Nat) :
    (s.setVal x (bytesToInt bs)).bankByte x b = bs.reverse.getD b 0#8 := by
  have hfits : bytesToInt bs < 2 ^ (32 * s.k) := by
    calc bytesToInt bs < 256 ^ bs.length := bytesToInt_lt bs
      _ ≤ 256 ^ (4 * s.k) := Nat.pow_le_pow_right (by decide) h
      _ = 2 ^ (32 * s.k) := by rw [show 256 = 2 ^ 8 from rfl, ← pow_mul]; congr 1; ring
  have hval : (s.setVal x (bytesToInt bs)).val x = bytesToInt bs := by
    rw [State.setVal, State.setBank_val, valueOf_wordsOf hfits]
  apply BitVec.eq_of_toNat_eq
  rw [State.toNat_bankByte, hval, pow_mul]
  exact bytesToInt_div_pow_mod bs b

end Sys2Proof.Machine

namespace Sys2Proof.Proofs

open Sys2Proof.Machine

/-- Settles O6: words and bytes are digits of the value, in bases `2^32` and `2^8`. -/
theorem operandIsLittleEndian : Obligations.OperandIsLittleEndian :=
  fun s x _ => ⟨fun b _ => s.toNat_bankByte x b, fun i _ => toNat_getD_eq_valueOf_digit (s.bank x) i⟩

/-- Settles O7: `A` holds the string in reverse, padded with zeros. -/
theorem messageBytesInRegisterA : Obligations.MessageBytesInRegisterA := by
  refine fun s bs _ hfits => ⟨fun j hj => ?_, fun b hb _ => ?_⟩ <;> rw [s.bankByte_setVal_bytesToInt .A hfits]
  · rw [List.getD_eq_getElem?_getD, List.getElem?_reverse (by omega), List.getD_eq_getElem?_getD]
    congr 2
    omega
  · exact List.getD_eq_default _ _ (by simpa using hb)

end Sys2Proof.Proofs

/-! The map of the window (20_memory.md R61, R68), and what an access to each mapped word does (R70, R71). -/

namespace Sys2Proof.Machine

theorem bankOfSlot_bankOffset (x : Bank) : bankOfSlot (bankOffset x / Config.bankStride) = some x := by
  cases x <;> rfl

/-- From `0x200` on only the banks are mapped, each in the first `4*K` bytes of its slot. -/
theorem mapped_of_bankStride_le {k off : Nat} (h : Config.bankStride ≤ off) :
    mapped k off = (bankOfSlot (off / Config.bankStride)).bind fun x =>
      if off % Config.bankStride < 4 * k then some (.operand x (off % Config.bankStride / 4)) else none := by
  unfold mapped
  split
  case h_6 => cases bankOfSlot (off / Config.bankStride) <;> rfl
  all_goals exact absurd h (by decide)

theorem bankStride_le_bankOffset (x : Bank) : Config.bankStride ≤ bankOffset x := by
  cases x <;> decide

theorem bankOffset_mod_bankStride (x : Bank) : bankOffset x % Config.bankStride = 0 := by
  cases x <;> rfl

theorem mapped_operand (x : Bank) {k i : Nat} (hk : i < k) (hi : i < 128) :
    mapped k (bankOffset x + 4 * i) = some (.operand x i) := by
  have hlow := bankStride_le_bankOffset x
  have hmod := bankOffset_mod_bankStride x
  have hslot := bankOfSlot_bankOffset x
  simp only [Config.bankStride] at *
  rw [mapped_of_bankStride_le (Nat.le_add_right_of_le hlow)]
  have hdiv : (bankOffset x + 4 * i) / 0x200 = bankOffset x / 0x200 := by omega
  have hrest : (bankOffset x + 4 * i) % 0x200 = 4 * i := by omega
  simp [Config.bankStride, hdiv, hrest, hslot, hk]

/-- A slot has room for 128 words, whatever `K`. -/
theorem lt_of_mapped_operand {k off i : Nat} {x : Bank} (haligned : off % 4 = 0)
    (h : mapped k off = some (.operand x i)) : i < 128 := by
  have hoff : off = bankOffset x + 4 * i := (offset_of_mapped haligned h).1
  have hlow := bankStride_le_bankOffset x
  rw [mapped_of_bankStride_le (by omega), Option.bind_eq_some_iff] at h
  obtain ⟨y, -, hy⟩ := h
  split at hy <;> cases hy
  simp only [Config.bankStride]
  omega

/-- The map of the window (20_memory.md R61): the five control registers, and the words of each bank that its slot holds. -/
theorem locate_eq_some_iff {k size : Nat} {off : Offset} {l : Location} :
    locate k off size = some l ↔
      size = 4 ∧ off.toNat = l.offset ∧ ∀ x i, l = .operand x i → i < k ∧ i < 128 := by
  constructor
  · intro h
    obtain ⟨hsize, hoff, hlt⟩ := locate_eq_some h
    refine ⟨hsize, hoff, fun x i hl => ⟨hlt x i hl, ?_⟩⟩
    unfold locate at h
    split at h
    case isTrue hword => exact lt_of_mapped_operand hword.2 (hl ▸ h)
    case isFalse => cases h
  · rintro ⟨rfl, hoff, hlt⟩
    cases l with
    | operand x i =>
      obtain ⟨hk, hi⟩ := hlt x i rfl
      have haligned : bankOffset x % 4 = 0 := by cases x <;> rfl
      rw [locate, if_pos ⟨rfl, by rw [hoff, Location.offset]; omega⟩, hoff]
      exact mapped_operand x hk hi
    | id | param | cmd | status | ctrl =>
      rw [locate, hoff]
      rfl

theorem locate_of_isWordOffset {k i : Nat} {off : Offset} {x : Bank} (hk : k ≤ 128) (h : isWordOffset k off x i) :
    locate k off 4 = some (.operand x i) := by
  refine locate_eq_some_iff.2 ⟨rfl, h.2, fun y j hl => ?_⟩
  cases hl
  exact ⟨h.1, h.1.trans_le hk⟩

/-- An access of another size, misaligned, between the control registers and the banks, past the banks, or past the words
of a bank is to no mapped word (20_memory.md R68). -/
theorem locate_eq_none {k size : Nat} {off : Offset}
    (h : size ≠ 4 ∨ off.toNat % 4 ≠ 0 ∨ (0x014 ≤ off.toNat ∧ off.toNat < 0x200) ∨ 0xC00 ≤ off.toNat ∨
      (0x200 ≤ off.toNat ∧ 4 * k ≤ off.toNat % 0x200)) : locate k off size = none := by
  rw [Option.eq_none_iff_forall_ne_some]
  intro l hl
  obtain ⟨hsize, hoff, hlt⟩ := locate_eq_some_iff.1 hl
  cases l with
  | operand x i =>
    have hi := hlt x i rfl
    cases x <;> simp only [Location.offset, bankOffset] at hoff <;> omega
  | id | param | cmd | status | ctrl =>
    simp only [Location.offset] at hoff
    omega

theorem busRead_of_locate {s : State} {off : Offset} {size : Nat} {l : Location} (h : locate s.k off size = some l) :
    busRead s off size = .data (readLocation s l) := by
  simp [busRead, h]

theorem step_withEvents_read {s : State} {off : Offset} {l : Location} (h : locate s.k off 4 = some l) :
    step (s.withEvents [.read off 4]) = .next (s.respond (.data (readLocation s l))) := by
  rw [step_withEvents, takeEvent, busRead_of_locate h]

theorem ctrlWord_eq_ite (ie : Bool) : ctrlWord ie = if ie then 1#32 else 0#32 := by
  cases ie <;> rfl

theorem writeLocation_of_refusesWrite {s : State} {l : Location} (v : Word) (h : refusesWrite s l) :
    writeLocation s v l = s.refuseWrite := by
  obtain rfl | rfl | ⟨rfl, hbusy⟩ | ⟨x, i, rfl, hrefused⟩ := h
  · rfl
  · rfl
  · simp [writeLocation, hbusy]
  · have hcond : (s.status.busy || !x.hostWritable) = true := by simpa [Bank.hostWritable_eq_false] using hrefused
    simp [writeLocation, hcond]

theorem writeLocation_operand {s : State} {x : Bank} (hbusy : s.status.busy = false) (hx : x ≠ .R) (i : Nat) (v : Word) :
    writeLocation s v (.operand x i) = s.setWord x i v := by
  have hcond : (s.status.busy || !x.hostWritable) = false := by
    simpa [hbusy, ← Bank.hostWritable_eq_false] using hx
  simp [writeLocation, hcond]

theorem step_withEvents_write_operand {s : State} {off : Offset} {x : Bank} {i : Nat} (hk : s.k ≤ 128)
    (hbusy : s.status.busy = false) (hx : x ≠ .R) (hoff : isWordOffset s.k off x i) (v : Word) :
    step (s.withEvents [.write off 4 v]) = .next ((s.setWord x i v).respond .ok) := by
  rw [step_withEvents_write v (locate_of_isWordOffset hk hoff), writeLocation_operand hbusy hx]

theorem Status.writeOneToClear_eq_ite (st : Status) (v : Word) :
    st.writeOneToClear v = { st with
      done := if v.getLsbD 1 then false else st.done
      accerr := if v.getLsbD 5 then false else st.accerr } := by
  rw [Status.writeOneToClear]
  cases v.getLsbD 1 <;> cases v.getLsbD 5 <;> simp

theorem State.word_setWord {s : State} {x : Bank} {i : Nat} (h : i < (s.bank x).length) (v : Word) :
    (s.setWord x i v).word x i = v := by
  simp [State.word, State.setWord, List.getD_eq_getElem?_getD, h]

theorem State.word_setWord_ne (s : State) {x y : Bank} {i j : Nat} (h : ¬ (y = x ∧ j = i)) (v : Word) :
    (s.setWord x i v).word y j = s.word y j := by
  rw [State.word, State.word, State.setWord]
  by_cases hy : y = x
  · subst hy
    have hj : i ≠ j := fun hij => h ⟨rfl, hij.symm⟩
    rw [State.setBank_bank, List.getD_eq_getElem?_getD, List.getElem?_set_ne hj, ← List.getD_eq_getElem?_getD]
  · rw [State.setBank_bank_ne _ _ _ _ hy]

@[simp] theorem State.respond_word (s : State) (r : Response) (x : Bank) (i : Nat) :
    (s.respond r).word x i = s.word x i := by
  rw [State.word, State.word, State.respond_bank]

theorem readLocation_of_busy {s s' : State} (hbusy : s.status.busy = true) (hstatus : s'.status = s.status)
    (hk : s'.k = s.k) (hcmd : s'.cmdreg = s.cmdreg) (hie : s'.ie = s.ie) (l : Location) :
    readLocation s' l = readLocation s l := by
  cases l with
  | id => rfl
  | param | cmd | status | ctrl => simp only [readLocation, hstatus, hk, hcmd, hie]
  | operand x i => simp [readLocation, hstatus, hbusy]

/-- An idle engine's operand word, read through the port. -/
theorem busRead_of_isWordOffset {s : State} {off : Offset} {x : Bank} {i : Nat} (hk : s.k ≤ 128)
    (hbusy : s.status.busy = false) (h : isWordOffset s.k off x i) : busRead s off 4 = .data (s.word x i) := by
  rw [busRead_of_locate (locate_of_isWordOffset hk h)]
  simp [readLocation, hbusy]

end Sys2Proof.Machine

namespace Sys2Proof.Proofs

open Sys2Proof.Machine

/-- Settles O34: a mapped word lies at its own offset, and `K` words of a legal `K` fit the slot. -/
theorem mapOfTheWindow : Obligations.MapOfTheWindow := by
  refine ⟨⟨rfl, rfl, rfl, rfl, rfl⟩, fun k off hk => ?_⟩
  have hcontrol (l : Location) (addr : Offset) (haddr : addr.toNat = l.offset) (hl : ∀ x i, l ≠ .operand x i) :
      locate k off 4 = some l ↔ off = addr := by
    rw [locate_eq_some_iff, ← haddr, BitVec.toNat_inj]
    simp [hl]
  refine ⟨hcontrol .id 0x000#12 rfl (by simp), hcontrol .param 0x004#12 rfl (by simp), hcontrol .cmd 0x008#12 rfl (by simp),
    hcontrol .status 0x00C#12 rfl (by simp), hcontrol .ctrl 0x010#12 rfl (by simp), fun x i => ?_⟩
  exact ⟨isWordOffset_of_locate, locate_of_isWordOffset (legalK_iff.1 hk).2⟩

/-- Settles O35: such an access is to no mapped word. -/
theorem errorResponseChangesNothing : Obligations.ErrorResponseChangesNothing := by
  intro s off size v h
  have hnone := locate_eq_none h
  rw [step_withEvents, step_withEvents, takeEvent, takeEvent]
  simp [busRead, busWrite, busWriteResponse, hnone, State.respond]

/-- Settles O36: a read is to one mapped word, and its answer is all that a step with it adds. -/
theorem readsOfTheWindow : Obligations.ReadsOfTheWindow := by
  intro s hinv
  obtain ⟨-, hk⟩ := hinv.kLegal
  refine ⟨step_withEvents_read (locate_idOffset s.k), ?_, step_withEvents_read (locate_cmdOffset s.k),
    step_withEvents_read (locate_statusOffset s.k), ?_, fun x i off hoff => ?_⟩
  · rw [step_withEvents_read (locate_paramOffset s.k), readLocation, paramWord_eq_ofNat (by omega)]
    rfl
  · rw [← ctrlWord_eq_ite]
    exact step_withEvents_read (locate_ctrlOffset s.k)
  · exact step_withEvents_read (locate_of_isWordOffset hk hoff)

/-- Settles O37: the words whose write is refused, and then each word whose write is not. -/
theorem writesOfTheWindow : Obligations.WritesOfTheWindow := by
  intro s v hinv
  obtain ⟨-, hk⟩ := hinv.kLegal
  have hrefused {off : Offset} {l : Location} (hl : locate s.k off 4 = some l) (h : refusesWrite s l) :
      step (s.withEvents [.write off 4 v]) = .next (s.refuseWrite.respond .ok) := by
    rw [step_withEvents_write v hl, writeLocation_of_refusesWrite v h]
  refine ⟨?_, fun hbusy => ?_, ?_, step_withEvents_write v (locate_ctrlOffset s.k), fun hbusy x i off hx hoff => ?_⟩
  · rintro off (rfl | rfl | ⟨i, hoff⟩ | ⟨hbusy, rfl | ⟨x, i, hoff⟩⟩)
    · exact hrefused (locate_idOffset s.k) (.inl rfl)
    · exact hrefused (locate_paramOffset s.k) (.inr (.inl rfl))
    · exact hrefused (locate_of_isWordOffset hk hoff) (.inr (.inr (.inr ⟨.R, i, rfl, .inr rfl⟩)))
    · exact hrefused (locate_cmdOffset s.k) (.inr (.inr (.inl ⟨rfl, hbusy⟩)))
    · exact hrefused (locate_of_isWordOffset hk hoff) (.inr (.inr (.inr ⟨x, i, rfl, .inl hbusy⟩)))
  · exact step_accept (s := s.withEvents [.write cmdOffset 4 v]) rfl hbusy
  · rw [← Status.writeOneToClear_eq_ite]
    exact step_withEvents_write v (locate_statusOffset s.k)
  · rw [step_withEvents_write_operand hk hbusy hx hoff, State.respond, State.setWord_responses]
    rfl

/-- Settles O38: two word offsets that differ are of two words. -/
theorem writtenWordIsReadBack : Obligations.WrittenWordIsReadBack := by
  intro s t x i off v hinv hbusy hx hoff h
  obtain ⟨-, hk⟩ := hinv.kLegal
  have hlt : i < (s.bank x).length := hinv.bankLength x ▸ hoff.1
  cases (step_withEvents_write_operand hk hbusy hx hoff v).symm.trans h
  have hread {y : Bank} {j : Nat} {off' : Offset} (hoff' : isWordOffset s.k off' y j) :
      busRead ((s.setWord x i v).respond .ok) off' 4 = .data ((s.setWord x i v).word y j) := by
    rw [busRead_of_isWordOffset (by simpa using hk) (by simpa using hbusy) (by simpa using hoff'), State.respond_word]
  refine ⟨?_, fun y j off' hoff' hne => ?_⟩
  · rw [hread hoff, State.word_setWord hlt]
  · have hword : ¬ (y = x ∧ j = i) := by
      rintro ⟨rfl, rfl⟩
      exact hne (BitVec.eq_of_toNat_eq (hoff'.2.trans hoff.2.symm))
    rw [hread hoff', s.word_setWord_ne hword, busRead_of_isWordOffset hk hbusy hoff']

/-- Settles O41: the map depends on `K` alone, and the only words that show an operand register read as 0 while busy. -/
theorem busyReadsHideTheOperands : Obligations.BusyReadsHideTheOperands := by
  intro s s' off size hbusy hstatus hk hcmd hie
  rw [busRead, busRead, hk]
  cases locate s.k off size with
  | none => rfl
  | some l => exact congrArg Response.data (readLocation_of_busy hbusy hstatus hk hcmd hie l)

end Sys2Proof.Proofs

/-! Runs of the machine, and what a command in flight computes (20_memory.md R78, 10_state.md R49). -/

namespace Sys2Proof.Machine

/-- A step takes the head off the schedule and no event adds to it. -/
theorem step_schedule {s t : State} (h : step s = .next t) : t.schedule = s.schedule.tail := by
  cases stepEffect_of_step h with
  | completion _ _ run => exact (completionFrame_of_executeCommand run).schedule
  | idleTurn => rfl
  | answer | refusal | acceptance | statusWrite | ctrlWrite | operandWrite | reset => simp [State.turnTaken]

/-- What every step with an allowed event keeps holds after any list of allowed events. -/
theorem exists_run_of_step_keeps {P : State → Prop} {allowed : Event → Prop}
    (hstep : ∀ {s t : State} {ev : Event}, P s → s.schedule.head? = some ev → allowed ev → step s = .next t → P t)
    {evs rest : List Event} {s : State} (hs : P s) (hsched : s.schedule = evs ++ rest)
    (hevs : ∀ ev ∈ evs, allowed ev) : ∃ u, runsTo evs.length s u ∧ P u := by
  induction evs generalizing s with
  | nil => exact ⟨s, runsTo_zero s, hs⟩
  | cons ev evs ih =>
    obtain ⟨hev, hevs⟩ := List.forall_mem_cons.1 hevs
    obtain ⟨t, ht⟩ := exists_step s
    have hnext : t.schedule = evs ++ rest := by rw [step_schedule ht, hsched]; rfl
    obtain ⟨u, hrun, hu⟩ := ih (hstep hs (by rw [hsched]; rfl) hev ht) hnext hevs
    exact ⟨u, runsTo_succ ht hrun, hu⟩

theorem head_eq_completion_of_engineTurn {s : State} {ev : Event} (h : s.schedule.head? = some ev)
    (hturn : s.engineTurn) : ev = .completion := by
  obtain hnil | ⟨rest, hrest⟩ := hturn
  · simp [hnil] at h
  · simpa [hrest, eq_comm] using h

/-- The states agree in all that a command in flight reads and in all that its completion leaves, but for `ACCERR`. -/
structure SameCommand (s u : State) : Prop where
  k : u.k = s.k
  bank : ∀ x, u.bank x = s.bank x
  cmdreg : u.cmdreg = s.cmdreg
  status : ∃ accerr, u.status = { s.status with accerr := accerr }

theorem SameCommand.trans {s u w : State} (h : SameCommand s u) (h' : SameCommand u w) : SameCommand s w where
  k := h'.k.trans h.k
  bank x := (h'.bank x).trans (h.bank x)
  cmdreg := h'.cmdreg.trans h.cmdreg
  status := by
    obtain ⟨a, ha⟩ := h.status
    obtain ⟨b, hb⟩ := h'.status
    exact ⟨b, by rw [hb, ha]⟩

theorem sameCommand_withEvents (s : State) (evs : List Event) : SameCommand s (s.withEvents evs) where
  k := rfl
  bank x := by cases x <;> rfl
  cmdreg := rfl
  status := ⟨s.status.accerr, rfl⟩

section InFlight

variable {s u t : State}

theorem SameCommand.busy_done (h : SameCommand s u) :
    u.status.busy = s.status.busy ∧ u.status.done = s.status.done := by
  obtain ⟨a, ha⟩ := h.status
  exact ⟨by rw [ha], by rw [ha]⟩

/-- A host access to a busy engine changes at most `ACCERR`, `IE` and the answers: `DONE`, which a write of `STATUS` can
clear, is 0 already (10_state.md R33). -/
theorem sameCommand_of_access_step {ev : Event} (hbusy : s.status.busy = true) (hdone : s.status.done = false)
    (hhead : s.schedule.head? = some ev) (hev : isAccess ev = true) (h : step s = .next t) : SameCommand s t := by
  cases stepEffect_of_step h with
  | completion turn | idleTurn turn =>
    cases head_eq_completion_of_engineTurn hhead turn
    cases hev
  | acceptance _ _ idle | operandWrite _ _ _ _ _ _ idle => simp [hbusy] at idle
  | reset head =>
    cases hhead.symm.trans head
    cases hev
  | answer | ctrlWrite => exact ⟨rfl, by simp, rfl, s.status.accerr, rfl⟩
  | refusal => exact ⟨rfl, by simp, rfl, true, rfl⟩
  | statusWrite v => exact ⟨rfl, by simp, rfl, s.status.accerr && !v.getLsbD 5, by simp [Status.writeOneToClear, hdone]⟩

theorem SameCommand.agreeOnReads (h : SameCommand s u) (i : Instr) : agreeOnReads i s u :=
  fun x _ => (h.bank x).symm

theorem SameCommand.raiseError (h : SameCommand s u) (c : ErrorCode) :
    SameCommand (s.raiseError c) (u.raiseError c) where
  k := h.k
  bank x := by simpa using h.bank x
  cmdreg := h.cmdreg
  status := by
    obtain ⟨a, ha⟩ := h.status
    exact ⟨a, by simp [ha, Status.finished]⟩

theorem SameCommand.writeResult_finish (h : SameCommand s u) (r : Nat) (ge : Bool) :
    SameCommand (s.writeResult r ge).finish (u.writeResult r ge).finish where
  k := h.k
  bank x := by
    by_cases hx : x = .R
    · simp [hx, h.k]
    · simp [State.writeResult_bank_ne _ _ _ hx, h.bank]
  cmdreg := h.cmdreg
  status := by
    obtain ⟨a, ha⟩ := h.status
    exact ⟨a, by simp [ha, Status.finished]⟩

theorem SameCommand.moved_finish (h : SameCommand s u) {i : Instr} (hi : isArithmetic i = false) :
    SameCommand (s.moved i).finish (u.moved i).finish where
  k := by simpa using h.k
  bank x := by
    rw [State.finish_bank, State.finish_bank]
    cases hx : writesBank i x with
    | false => rw [State.moved_bank_of_not_writes u hx, State.moved_bank_of_not_writes s hx, h.bank]
    | true => exact ((h.agreeOnReads i).moved_bank h.k.symm hi hx).symm
  cmdreg := by simpa using h.cmdreg
  status := by
    obtain ⟨a, ha⟩ := h.status
    exact ⟨a, by simp [ha, Status.finished]⟩

theorem SameCommand.exec (h : SameCommand s u) (i : Instr) :
    ∃ t t', exec i s = .next t ∧ exec i u = .next t' ∧ SameCommand t t' := by
  have hreads := h.agreeOnReads i
  have hN : u.val .N = s.val .N := congrArg valueOf (h.bank .N)
  obtain ⟨hi, hzero, hs⟩ | ⟨hi, hne, hs⟩ | ⟨hi, hs⟩ := exec_cases i s
  · exact ⟨_, _, hs, exec_arithmetic_of_zero hi (hN.trans hzero), h.raiseError .modZero⟩
  · refine ⟨_, _, hs, exec_arithmetic_of_ne hi (hN ▸ hne), ?_⟩
    rw [← hreads.commandResult h.k.symm, ← hreads.commandGe]
    exact h.writeResult_finish _ _
  · exact ⟨_, _, hs, exec_of_not_isArithmetic hi u, h.moved_finish hi⟩

theorem SameCommand.executeCommand (h : SameCommand s u) :
    ∃ t t', executeCommand s = .next t ∧ executeCommand u = .next t' ∧ SameCommand t t' := by
  rw [Machine.executeCommand, Machine.executeCommand, h.cmdreg]
  cases decode s.cmdreg with
  | ok i => exact h.exec i
  | error => exact ⟨_, _, rfl, rfl, h.raiseError .illegalCmd⟩

end InFlight

/-- `u` is idle and shows the result and the command word of `s` (20_memory.md R78). -/
structure IdleWithResult (s u : State) : Prop where
  R : u.R = s.R
  idle : u.status.busy = false
  cmdreg : u.cmdreg = s.cmdreg

theorem IdleWithResult.step {s u t : State} (hu : IdleWithResult s u)
    (hcmd : ∀ v, u.schedule.head? ≠ some (.write cmdOffset 4 v)) (hreset : u.schedule.head? ≠ some .reset)
    (h : step u = .next t) : IdleWithResult s t := by
  cases stepEffect_of_step h with
  | completion _ busy => simp [hu.idle] at busy
  | acceptance v head => exact absurd head (hcmd v)
  | reset head => exact absurd head hreset
  | idleTurn | answer | refusal | statusWrite | ctrlWrite => exact ⟨hu.R, hu.idle, hu.cmdreg⟩
  | operandWrite _ v x i _ _ _ writable =>
    have hR : (u.turnTaken.setWord x i v).bank .R = u.turnTaken.bank .R :=
      State.setBank_bank_ne _ _ _ _ writable.symm
    exact ⟨hR.trans hu.R, by simpa using hu.idle, by simpa using hu.cmdreg⟩

end Sys2Proof.Machine

namespace Sys2Proof.Proofs

open Sys2Proof.Machine

/-- Settles O50: by induction on the accesses, of which each leaves all that the command reads, and then by the meaning of
the command, which reads nothing else. -/
theorem hostCannotChangeTheCommandInFlight : Obligations.HostCannotChangeTheCommandInFlight := by
  intro s evs hinv hbusy hevs
  have hdone := (hinv.busyClear hbusy).1
  obtain ⟨u, hrun, hu⟩ := exists_run_of_step_keeps (P := SameCommand s) (allowed := (isAccess · = true))
    (fun h hhead hev hstep => h.trans (sameCommand_of_access_step (h.busy_done.1.trans hbusy)
      (h.busy_done.2.trans hdone) hhead hev hstep))
    (sameCommand_withEvents s evs) rfl hevs
  obtain ⟨t, t', ht, ht', hsame⟩ := hu.executeCommand
  obtain ⟨a, ha⟩ := hsame.status
  exact ⟨u, t, t', hrun, hu.busy_done.1.trans hbusy, ht, ht', hsame.bank, hsame.cmdreg, by rw [ha]⟩

/-- Settles O51: by induction on the events, with what each step of an idle engine keeps. -/
theorem resultStaysUntilTheNextCommand : Obligations.ResultStaysUntilTheNextCommand := by
  intro s evs hbusy hevs
  obtain ⟨u, hrun, hu⟩ := exists_run_of_step_keeps (P := IdleWithResult s) (s := s.withEvents evs)
    (fun hu hhead hev hstep => hu.step (fun v hv => hev.2 v (Option.some.inj (hhead.symm.trans hv)))
      (fun hv => hev.1 (Option.some.inj (hhead.symm.trans hv))) hstep)
    ⟨rfl, hbusy, rfl⟩ rfl hevs
  exact ⟨u, hrun, hu.R, hu.idle, hu.cmdreg⟩

end Sys2Proof.Proofs

/-! What the decoder answers on bytes, and by which test it rejects a word (30_encoding.md R90, R94, R95). -/

namespace Sys2Proof.Machine

theorem decodeBytes_bytesOfWord {w : Word} {i : Instr} (h : decode w = .ok i) (rest : List Byte) :
    decodeBytes (bytesOfWord w ++ rest) = .ok (i, rest) := by
  simp [bytesOfWord, decodeBytes, wordOfBytes_byteLanes, h]

theorem toNat_formatOf_zero (w : Word) : (formatOf w).zero.toNat = w.toNat / 256 := by
  have hw := w.isLt
  simp only [formatOf, bitField, BitVec.extractLsb'_toNat, Nat.shiftRight_eq_div_pow]
  omega

theorem toNat_formatOf_opcode (w : Word) : (formatOf w).opcode.toNat = w.toNat % 256 := by
  simp [formatOf, bitField, BitVec.extractLsb'_toNat]

theorem formatOf_zero_eq_iff {w : Word} : (formatOf w).zero = 0#24 ↔ w.toNat < 256 := by
  rw [← BitVec.toNat_inj, toNat_formatOf_zero, BitVec.toNat_ofNat]
  omega

theorem decode_of_upperBitsSet {w : Word} (h : 256 ≤ w.toNat) : decode w = .error .upperBitsSet :=
  if_neg (mt formatOf_zero_eq_iff.1 (Nat.not_lt.2 h))

theorem decode_of_opcodeUnassigned {w : Word} (hlow : 8 ≤ w.toNat) (hhigh : w.toNat < 256) :
    decode w = .error .opcodeUnassigned := by
  have hopcode : (formatOf w).opcode.toNat = w.toNat := by rw [toNat_formatOf_opcode, Nat.mod_eq_of_lt hhigh]
  rw [decode, if_pos (formatOf_zero_eq_iff.2 hhigh)]
  split
  case h_9 => rfl
  all_goals omega

end Sys2Proof.Machine

namespace Sys2Proof.Proofs

open Sys2Proof.Machine

/-- Settles O3: the four byte lanes of a word make the word again, and decode is the inverse of encode on words. -/
theorem decodeInvertsEncode : Obligations.DecodeInvertsEncode :=
  ⟨fun i rest => decodeBytes_bytesOfWord (decode_encode i) rest, fun _ _ h => encode_of_decode h⟩

/-- Settles O1: a word decodes to a command exactly when it is the command's encoding. -/
theorem decodeSelectsExactlyTheMap : Obligations.DecodeSelectsExactlyTheMap := fun _ =>
  ⟨decode_eq_ok_iff, decode_eq_ok_iff, decode_eq_ok_iff, decode_eq_ok_iff, decode_eq_ok_iff, decode_eq_ok_iff,
    decode_eq_ok_iff, decode_eq_ok_iff⟩

/-- Settles O4: bits 31:8 are clear exactly below 256, and there the opcode is the word. -/
theorem illegalWordsAreRejected : Obligations.IllegalWordsAreRejected := fun _ =>
  ⟨decode_of_upperBitsSet, decode_of_opcodeUnassigned⟩

/-- Settles O2: each of the five words is its command's encoding. -/
theorem specWordsDecodeToTheirCommands : Obligations.SpecWordsDecodeToTheirCommands :=
  ⟨decode_encode .nop, decode_encode .modexp, decode_encode .modred, decode_encode .movra, decode_encode .clr⟩

end Sys2Proof.Proofs

/-! The host's pseudo-statements `LOAD` and `READ` as runs of the machine (30_encoding.md R99). -/

namespace Sys2Proof.Machine

/-- A run of host events goes on after its first one. -/
theorem runsTo_withEvents_cons {k : Nat} {s t u : State} {ev : Event} {evs : List Event}
    (h : takeEvent (s.withEvents evs) ev = .next (t.withEvents evs)) (h' : runsTo k (t.withEvents evs) u) :
    runsTo (k + 1) (s.withEvents (ev :: evs)) u :=
  runsTo_succ (s := s.withEvents (ev :: evs)) h h'

theorem isWordOffset_wordOffset (x : Bank) {k i : Nat} (hk : k ≤ 128) (hi : i < k) :
    isWordOffset k (wordOffset x i) x i := by
  refine ⟨hi, ?_⟩
  have hbank : bankOffset x ≤ 0xA00 := by cases x <;> decide
  rw [wordOffset, BitVec.toNat_ofNat]
  omega

theorem State.setWord_respond_withEvents (s : State) (x : Bank) (i : Nat) (v : Word) (r : Response) (evs : List Event) :
    ((s.withEvents evs).setWord x i v).respond r = ((s.setWord x i v).respond r).withEvents evs := by
  cases x <;> rfl

theorem State.setBank_bank_self (s : State) (x : Bank) : s.setBank x (s.bank x) = s := by
  cases x <;> rfl

theorem State.bank_with_responses (s : State) (rs : List Response) (x : Bank) :
    ({ s with responses := rs } : State).bank x = s.bank x := by
  cases x <;> rfl

theorem State.setWord_respond_setBank (s : State) (x : Bank) (i : Nat) (v : Word) (r : Response) (ws : List Word)
    (rs : List Response) :
    { ((s.setWord x i v).respond r).setBank x ws with responses := rs } = { s.setBank x ws with responses := rs } := by
  cases x <;> rfl

section Idle

variable {s : State} {x : Bank}

theorem takeEvent_write_word {i : Nat} (hk : s.k ≤ 128) (hbusy : s.status.busy = false) (hx : x ≠ .R) (hi : i < s.k)
    (v : Word) (evs : List Event) :
    takeEvent (s.withEvents evs) (.write (wordOffset x i) 4 v) =
      .next (((s.setWord x i v).respond .ok).withEvents evs) := by
  have hloc := locate_of_isWordOffset hk (isWordOffset_wordOffset x hk hi)
  rw [takeEvent_write (s := s.withEvents evs) v hloc, writeLocation_operand (s := s.withEvents evs) hbusy hx,
    State.setWord_respond_withEvents]

theorem takeEvent_read_word {i : Nat} (hk : s.k ≤ 128) (hbusy : s.status.busy = false) (hi : i < s.k)
    (evs : List Event) :
    takeEvent (s.withEvents evs) (.read (wordOffset x i) 4) =
      .next ((s.respond (.data (s.word x i))).withEvents evs) := by
  have hread := busRead_of_isWordOffset (s := s.withEvents evs) hk hbusy (isWordOffset_wordOffset x hk hi)
  rw [takeEvent, hread]
  cases x <;> rfl

/-- `LOAD`'s writes from word `written.length` on replace the words of the register that are not yet written. -/
theorem runsTo_loadEvents {written old ws : List Word} (hk : s.k ≤ 128) (hbusy : s.status.busy = false) (hx : x ≠ .R)
    (hbank : s.bank x = written ++ old) (hold : old.length = ws.length) (hlen : (written ++ ws).length = s.k) :
    runsTo ws.length (s.withEvents (loadEvents x written.length ws))
      { s.setBank x (written ++ ws) with responses := List.replicate ws.length .ok ++ s.responses } := by
  induction ws generalizing s written old with
  | nil =>
    rw [List.length_eq_zero_iff.1 hold] at hbank
    rw [← hbank, State.setBank_bank_self]
    exact runsTo_zero s
  | cons w ws ih =>
    obtain ⟨u, old, rfl⟩ := List.exists_cons_of_length_eq_add_one hold
    have hi : written.length < s.k := by
      rw [← hlen]
      simp
    have hnext : ((s.setWord x written.length w).respond .ok).bank x = (written ++ [w]) ++ old := by
      simp [State.setWord, hbank]
    have hrun := ih (s := (s.setWord x written.length w).respond .ok) (by simpa using hk) (by simpa using hbusy) hnext
      (Nat.succ.inj hold) (by simpa using hlen)
    refine runsTo_withEvents_cons (takeEvent_write_word hk hbusy hx hi w _) ?_
    rw [State.setWord_respond_setBank, List.append_assoc, List.length_append] at hrun
    simpa [List.replicate_succ'] using hrun

/-- Reads of words of the register answer these words, and that is all they do. -/
theorem runsTo_readWords {is : List Nat} (hk : s.k ≤ 128) (hbusy : s.status.busy = false) (his : ∀ i ∈ is, i < s.k) :
    runsTo is.length (s.withEvents (is.map fun i => .read (wordOffset x i) 4))
      { s with responses := (is.map fun i => .data (s.word x i)).reverse ++ s.responses } := by
  induction is generalizing s with
  | nil => exact runsTo_zero s
  | cons i is ih =>
    obtain ⟨hi, his⟩ := List.forall_mem_cons.1 his
    have hrun := ih (s := s.respond (.data (s.word x i))) hk hbusy his
    simp only [State.respond_word, State.respond_responses] at hrun
    refine runsTo_withEvents_cons (takeEvent_read_word hk hbusy hi _) ?_
    simpa [State.respond] using hrun

end Idle

theorem valueRead_map_data (ws : List Word) : valueRead (ws.map .data) = valueOf ws := by
  induction ws with
  | nil => rfl
  | cons w ws ih => rw [List.map_cons, valueRead, valueOf, ih]

theorem State.map_word_range {s : State} {x : Bank} (h : (s.bank x).length = s.k) :
    (List.range s.k).map (s.word x) = s.bank x := by
  refine List.ext_getElem (by simp [h]) fun i _ hi => ?_
  simp [State.word, hi]

end Sys2Proof.Machine

namespace Sys2Proof.Proofs

open Sys2Proof.Machine

/-- Settles O54: the writes replace the register's `K` words one by one by the words of `v`, whose value is `v`. -/
theorem loadWritesTheWholeRegister : Obligations.LoadWritesTheWholeRegister := by
  intro s polls x v hinv hbusy hwf
  simp only [Stmt.wellFormed, Bool.and_eq_true, decide_eq_true_eq] at hwf
  obtain ⟨hwritable, hv⟩ := hwf
  have hx : x ≠ .R := by
    rintro rfl
    cases hwritable
  have hrun := runsTo_loadEvents (s := s) (written := []) (old := s.bank x) (ws := wordsOf s.k v) hinv.kLegal.2 hbusy hx
    rfl ((hinv.bankLength x).trans (length_wordsOf s.k v).symm) (length_wordsOf s.k v)
  rw [length_wordsOf] at hrun
  have hbank := (s.setBank x (wordsOf s.k v)).bank_with_responses (List.replicate s.k .ok ++ s.responses) x
  rw [State.setBank_bank] at hbank
  exact ⟨_, hrun, (congrArg valueOf hbank).trans (valueOf_wordsOf hv), by rw [List.nil_append, hbank]⟩

/-- Settles O55: `READ`'s answers are the register's words, the lowest first. -/
theorem readShowsTheValue : Obligations.ReadShowsTheValue := by
  intro s polls x hinv hbusy
  refine ⟨(s.bank x).map .data, ?_, by rw [List.length_map, hinv.bankLength], valueRead_map_data _⟩
  have hrun := runsTo_readWords (x := x) (is := List.range s.k) hinv.kLegal.2 hbusy (by simp)
  rw [List.length_range] at hrun
  rw [← State.map_word_range (hinv.bankLength x), List.map_map]
  exact hrun

end Sys2Proof.Proofs

/-! The multiplier and reduction unit: each of its functions is a remainder (40_arith_commands.md R110 to R116). -/

namespace Sys2Proof.Machine

theorem modmul_lt {n : Nat} (hn : 0 < n) (x y : Nat) : modmul x y n < n := Nat.mod_lt _ hn

theorem modmul_eq_of_lt {x y n q r : Nat} (hr : r < n) (h : x * y = q * n + r) : modmul x y n = r := by
  rw [modmul, h, Nat.mul_add_mod', Nat.mod_eq_of_lt hr]

theorem modmul_mod_mod (x y n : Nat) : modmul (x % n) (y % n) n = modmul x y n := (Nat.mul_mod x y n).symm

theorem modmul_one_right (x n : Nat) : modmul x 1 n = modred x n := by rw [modmul, modred, Nat.mul_one]

theorem mul_lt_two_pow_two_mul {x y b : Nat} (hx : x < 2 ^ b) (hy : y < 2 ^ b) : x * y < 2 ^ (2 * b) := by
  rw [Nat.two_mul, pow_add]
  exact Nat.mul_lt_mul'' hx hy

/-- Squaring doubles the exponent read so far, and the multiplication by `a` adds the next bit of `e`. -/
theorem modexpStep_pow (a e n j : Nat) :
    modexpStep a e n j (a ^ (e / 2 ^ (j + 1)) % n) = a ^ (e / 2 ^ j) % n := by
  rw [pow_succ, ← Nat.div_div_eq_div_mul, modexpStep]
  generalize e / 2 ^ j = m
  have hsqr : modmul (a ^ (m / 2) % n) (a ^ (m / 2) % n) n = a ^ (2 * (m / 2)) % n := by
    rw [modmul_mod_mod, modmul, ← pow_add, Nat.two_mul]
  rw [hsqr]
  split
  case isTrue hbit =>
    rw [modmul, Nat.mod_mul_mod, ← pow_succ, show 2 * (m / 2) + 1 = m by omega]
  case isFalse hbit =>
    rw [show 2 * (m / 2) = m by omega]

theorem modexpLoop_pow (a e n j : Nat) : modexpLoop a e n j (a ^ (e / 2 ^ j) % n) = a ^ e % n := by
  induction j with
  | zero => rw [modexpLoop, pow_zero, Nat.div_one]
  | succ j ih => rw [modexpLoop, modexpStep_pow, ih]

theorem modexp_eq_pow_mod {nbits e : Nat} (he : e < 2 ^ nbits) (a n : Nat) : modexp nbits a e n = a ^ e % n := by
  have hloop := modexpLoop_pow a e n nbits
  rwa [Nat.div_eq_of_lt he, pow_zero] at hloop

end Sys2Proof.Machine

/-! Barrett's reduction (40_arith_commands.md R113): the estimate of the quotient is short by at most two. -/

namespace Sys2Proof.Machine

theorem bitLength_of_pos {n : Nat} (hn : 1 ≤ n) : bitLength n = Nat.log2 n + 1 := if_neg (Nat.ne_of_gt hn)

theorem two_pow_bitLength_sub_one_le {n : Nat} (hn : 1 ≤ n) : 2 ^ (bitLength n - 1) ≤ n := by
  rw [bitLength_of_pos hn, Nat.add_sub_cancel]
  exact Nat.log2_self_le (Nat.ne_of_gt hn)

theorem two_pow_two_mul_bitLength {n : Nat} (hn : 1 ≤ n) :
    2 ^ (2 * bitLength n) = 2 ^ (bitLength n - 1) * 2 ^ (bitLength n + 1) := by
  have hlog := bitLength_of_pos hn
  rw [← pow_add]
  congr 1
  omega

theorem correctRemainder_eq_mod {n times r : Nat} (hr : r < (times + 1) * n) : correctRemainder n times r = r % n := by
  induction times generalizing r with
  | zero =>
    rw [Nat.zero_add, Nat.one_mul] at hr
    exact (Nat.mod_eq_of_lt hr).symm
  | succ times ih =>
    rw [correctRemainder]
    split
    case isTrue hle =>
      have hlt : r - n < (times + 1) * n := by
        rw [Nat.succ_mul] at hr
        omega
      rw [ih hlt, ← Nat.mod_eq_sub_mod hle]
    case isFalse hgt => exact (Nat.mod_eq_of_lt (Nat.lt_of_not_le hgt)).symm

section Estimate

variable {x n b c : Nat}

/-- The three divisions of the estimate, whose two bases are `b = 2^(k-1)` and `c = 2^(k+1)`, only round down. -/
theorem barrettEstimate_mul_le (hc : 0 < c) : x / b * (b * c / n) / c * n ≤ x := by
  refine Nat.le_of_mul_le_mul_right ?_ hc
  calc x / b * (b * c / n) / c * n * c
      = x / b * (b * c / n) / c * c * n := by ring
    _ ≤ x / b * (b * c / n) * n := Nat.mul_le_mul_right n (Nat.div_mul_le_self _ _)
    _ = x / b * (b * c / n * n) := by ring
    _ ≤ x / b * (b * c) := Nat.mul_le_mul_left _ (Nat.div_mul_le_self _ _)
    _ = x / b * b * c := by ring
    _ ≤ x * c := Nat.mul_le_mul_right c (Nat.div_mul_le_self _ _)

/-- Each of the three divisions loses less than one modulus. -/
theorem lt_barrettEstimate_add_three_mul (hn : 0 < n) (hb : 0 < b) (hc : 0 < c) (hbn : b ≤ n) (hx : x < b * c) :
    x < (x / b * (b * c / n) / c + 3) * n := by
  have hbase : x ≤ x / b * b + n := (Nat.lt_div_mul_add hb).le.trans (Nat.add_le_add_left hbn _)
  have hscaled : b * c ≤ b * c / n * n + n := (Nat.lt_div_mul_add hn).le
  have hquot : x / b * (b * c / n) < (x / b * (b * c / n) / c + 1) * c :=
    (Nat.lt_div_mul_add hc).trans_eq (Nat.succ_mul _ _).symm
  have hdigits : x / b ≤ c := (Nat.div_lt_of_lt_mul hx).le
  refine Nat.lt_of_mul_lt_mul_right (a := c) ?_
  calc x * c
      ≤ (x / b * b + n) * c := Nat.mul_le_mul_right c hbase
    _ = x / b * (b * c) + n * c := by ring
    _ ≤ x / b * (b * c / n * n + n) + n * c := Nat.add_le_add_right (Nat.mul_le_mul_left _ hscaled) _
    _ = x / b * (b * c / n) * n + x / b * n + n * c := by ring
    _ ≤ x / b * (b * c / n) * n + c * n + n * c :=
        Nat.add_le_add_right (Nat.add_le_add_left (Nat.mul_le_mul_right n hdigits) _) _
    _ < (x / b * (b * c / n) / c + 1) * c * n + c * n + n * c :=
        Nat.add_lt_add_right (Nat.add_lt_add_right (Nat.mul_lt_mul_of_pos_right hquot hn) _) _
    _ = (x / b * (b * c / n) / c + 3) * n * c := by ring

end Estimate

theorem barrettReduce_eq_mod {x n : Nat} (hn : 1 ≤ n) (hx : x < 2 ^ (2 * bitLength n)) : barrettReduce x n = x % n := by
  rw [two_pow_two_mul_bitLength hn] at hx
  have hle : barrettQuotient x n * n ≤ x := by
    rw [barrettQuotient, two_pow_two_mul_bitLength hn]
    exact barrettEstimate_mul_le (Nat.two_pow_pos _)
  have hlt : x < (barrettQuotient x n + 3) * n := by
    rw [barrettQuotient, two_pow_two_mul_bitLength hn]
    exact lt_barrettEstimate_add_three_mul hn (Nat.two_pow_pos _) (Nat.two_pow_pos _)
      (two_pow_bitLength_sub_one_le hn) hx
  have hr : x - barrettQuotient x n * n < (2 + 1) * n := by
    rw [Nat.add_mul] at hlt
    omega
  rw [barrettReduce, correctRemainder_eq_mod hr, Nat.mul_comm, Nat.sub_mul_mod (Nat.mul_comm n _ ▸ hle)]

end Sys2Proof.Machine

namespace Sys2Proof.Proofs

open Sys2Proof.Machine

/-- Settles O8: each iteration adds one bit of the exponent, and the factors of each product are below `2^NBITS`. -/
theorem modexpProcedureIsThePower : Obligations.ModexpProcedureIsThePower := by
  intro nbits a e n hn he
  refine ⟨modexp_eq_pow_mod he a n, ?_, fun ha hnbits r hr => ⟨?_, ?_⟩⟩
  · rintro j r rfl
    exact modexpStep_pow a e n j
  · exact mul_lt_two_pow_two_mul (hr.trans hnbits) (hr.trans hnbits)
  · exact mul_lt_two_pow_two_mul ((modmul_lt hn r r).trans hnbits) ha

/-- Settles O9: `modmul` is the remainder of the division of the product by `n`. -/
theorem modmulIsTheUniqueRemainder : Obligations.ModmulIsTheUniqueRemainder := by
  intro x y n hn
  exact ⟨modmul_lt hn x y, ⟨x * y / n, (Nat.div_add_mod' (x * y) n).symm⟩, fun r q hr h => (modmul_eq_of_lt hr h).symm,
    fun nbits hx hy => mul_lt_two_pow_two_mul hx hy, rfl, (modmul_one_right x n).symm⟩

/-- Settles O10: the remainder of a product and of a power depends on the remainders of the operands only. -/
theorem unreducedOperandsComputeTheSame : Obligations.UnreducedOperandsComputeTheSame := by
  intro nbits x y a e n _ he
  refine ⟨(modmul_mod_mod x y n).symm, ?_⟩
  rw [modexp_eq_pow_mod he, modexp_eq_pow_mod he, Nat.pow_mod]

/-- Settles O11: the estimate leaves less than three moduli, of which the two corrections take at most two. -/
theorem barrettSketchIsExact : Obligations.BarrettSketchIsExact := fun _ _ => barrettReduce_eq_mod

end Sys2Proof.Proofs

/-! The four arithmetic commands: the result they write, and its value (40_arith_commands.md R118 to R132). -/

namespace Sys2Proof.Machine

section Results

variable {s : State}

theorem State.commandResult_modexp (h : s.val .E < 2 ^ s.nbits) :
    s.commandResult .modexp = s.val .A ^ s.val .E % s.val .N :=
  modexp_eq_pow_mod h _ _

theorem State.commandResult_modmul_of_zero (h : s.val .A = 0 ∨ s.val .B = 0) : s.commandResult .modmul = 0 := by
  rw [State.commandResult, modmul, Nat.mul_eq_zero.2 h, Nat.zero_mod]

theorem State.commandResult_modsqr_of_zero (h : s.val .A = 0) : s.commandResult .modsqr = 0 := by
  rw [State.commandResult, modsqr, modmul, h, Nat.zero_mul, Nat.zero_mod]

theorem State.commandResult_modred_of_zero (h : s.val .A = 0) : s.commandResult .modred = 0 := by
  rw [State.commandResult, modred, h, Nat.zero_mod]

theorem State.val_lt_two_pow_nbits {x : Bank} (h : (s.bank x).length = s.k) : s.val x < 2 ^ s.nbits := s.val_lt x h

/-- The normal end of an arithmetic command, as the equation of the whole next state. -/
theorem exec_arithmetic_writes_result {i : Instr} (hlen : (s.bank .N).length = s.k) (hi : isArithmetic i = true)
    (hN : s.val .N ≠ 0) :
    ∃ r : List Word, r.length = s.k ∧ valueOf r = s.commandResult i ∧
      exec i s = .next { s with
        R := r
        status := { s.status with ge := s.commandGe i, z := decide (valueOf r = 0), busy := false, done := true } } := by
  have hval : valueOf (wordsOf s.k (s.commandResult i)) = s.commandResult i :=
    valueOf_wordsOf (State.commandResult_lt_two_pow hlen hN i)
  refine ⟨_, length_wordsOf s.k _, hval, ?_⟩
  rw [exec_arithmetic_of_ne hi hN, hval]
  rfl

theorem exec_arithmetic_val_R {i : Instr} {v : Nat} (hlen : (s.bank .N).length = s.k) (hi : isArithmetic i = true)
    (hN : s.val .N ≠ 0) (hv : s.commandResult i = v) : ∃ t, exec i s = .next t ∧ t.val .R = v := by
  obtain ⟨r, -, hval, hexec⟩ := exec_arithmetic_writes_result hlen hi hN
  exact ⟨_, hexec, hval.trans hv⟩

/-- `MODSQR` is `MODMUL` where the second factor is the first (40_arith_commands.md R124). -/
theorem exec_modsqr_eq_exec_modmul (h : s.val .B = s.val .A) : exec .modsqr s = exec .modmul s := by
  have hresult : s.commandResult .modsqr = s.commandResult .modmul := by
    simp only [State.commandResult, modsqr, h]
  have hge : s.commandGe .modsqr = s.commandGe .modmul := by
    simp only [State.commandGe, geOf, geOfTwo, h, Bool.or_self]
  rw [exec_of_isArithmetic rfl, exec_of_isArithmetic rfl, hresult, hge]

theorem val_N_le_val_A_iff_ne {r : List Word} (hN : s.val .N ≠ 0) (hlen : (s.bank .A).length = s.k)
    (hr : r.length = s.k) (hval : valueOf r = s.val .A % s.val .N) : s.val .N ≤ s.val .A ↔ r ≠ s.bank .A := by
  have hsame : r = s.bank .A ↔ s.val .A < s.val .N := by
    rw [← Nat.mod_eq_iff_lt hN, ← hval]
    exact ⟨congrArg valueOf, valueOf_inj (hr.trans hlen.symm)⟩
  rw [Ne, hsame, Nat.not_lt]

end Results

end Sys2Proof.Machine

namespace Sys2Proof.Proofs

open Sys2Proof.Machine

/-- Settles O12: the result is `modexp`'s, which is the power since `val(E) < 2^NBITS`. -/
theorem modexpEffect : Obligations.ModexpEffect := by
  refine ⟨decode_encode .modexp, fun s hinv => ⟨fun hN => ?_, exec_arithmetic_of_zero rfl⟩⟩
  obtain ⟨r, hlen, hval, hexec⟩ := exec_arithmetic_writes_result (i := .modexp) (hinv.bankLength .N) rfl hN
  exact ⟨r, hlen, hval.trans (State.commandResult_modexp (State.val_lt_two_pow_nbits (hinv.bankLength .E))), hexec⟩

/-- Settles O13: the result is `modmul`'s, the remainder of the product. -/
theorem modmulEffect : Obligations.ModmulEffect := by
  refine ⟨decode_encode .modmul, fun s hinv => ⟨fun hN => ?_, exec_arithmetic_of_zero rfl⟩⟩
  obtain ⟨r, hlen, hval, hexec⟩ := exec_arithmetic_writes_result (i := .modmul) (hinv.bankLength .N) rfl hN
  rw [(s.commandGe_of_isArithmetic rfl).2 rfl] at hexec
  exact ⟨r, hlen, hval, hexec⟩

/-- Settles O14: the result is `modsqr`'s, the remainder of the square. -/
theorem modsqrEffect : Obligations.ModsqrEffect := by
  refine ⟨decode_encode .modsqr, fun s hinv => ⟨fun hN => ?_, exec_arithmetic_of_zero rfl, exec_modsqr_eq_exec_modmul⟩⟩
  obtain ⟨r, hlen, hval, hexec⟩ := exec_arithmetic_writes_result (i := .modsqr) (hinv.bankLength .N) rfl hN
  exact ⟨r, hlen, hval, hexec⟩

/-- Settles O15: the result is `modred`'s; registers of `K` words differ exactly when their values do. -/
theorem modredEffect : Obligations.ModredEffect := by
  refine ⟨decode_encode .modred, fun s hinv => ⟨fun hN => ?_, exec_arithmetic_of_zero rfl⟩⟩
  obtain ⟨r, hlen, hval, hexec⟩ := exec_arithmetic_writes_result (i := .modred) (hinv.bankLength .N) rfl hN
  refine ⟨r, hlen, hval, val_N_le_val_A_iff_ne hN (hinv.bankLength .A) hlen hval, ?_, hexec⟩
  rw [hval, Nat.dvd_iff_mod_eq_zero]
  rfl

/-- Settles O19: each clause is the value of the command's result at the corner. -/
theorem arithmeticCornerCases : Obligations.ArithmeticCornerCases := by
  intro s hinv
  have hlen := hinv.bankLength .N
  have hmodexp := State.commandResult_modexp (State.val_lt_two_pow_nbits (hinv.bankLength .E))
  refine ⟨fun hone i hi => ?_, fun hN hAB => ?_, fun hN hA => ⟨?_, ?_, fun hE => ?_⟩, fun hN hE => ?_, fun hN i hi => ?_⟩
  · have hN : s.val .N ≠ 0 := hone ▸ Nat.one_ne_zero
    have hzero : s.commandResult i = 0 := Nat.lt_one_iff.1 (hone ▸ State.commandResult_lt hN i)
    obtain ⟨r, -, hval, hexec⟩ := exec_arithmetic_writes_result hlen hi hN
    exact ⟨_, hexec, hval.trans hzero, decide_eq_true (hval.trans hzero)⟩
  · exact exec_arithmetic_val_R hlen rfl hN (State.commandResult_modmul_of_zero hAB)
  · exact exec_arithmetic_val_R hlen rfl hN (State.commandResult_modsqr_of_zero hA)
  · exact exec_arithmetic_val_R hlen rfl hN (State.commandResult_modred_of_zero hA)
  · exact exec_arithmetic_val_R hlen rfl hN (by rw [hmodexp, hA, Nat.zero_pow hE, Nat.zero_mod])
  · exact exec_arithmetic_val_R hlen rfl hN (by rw [hmodexp, hE, pow_zero])
  · exact ⟨_, exec_arithmetic_of_zero hi hN, rfl, rfl, rfl⟩

end Sys2Proof.Proofs

/-! The RSA identity (40_arith_commands.md R135). -/

namespace Sys2Proof.Machine

/-- Fermat's theorem, in the form that holds of every base. -/
theorem pow_mul_sub_one_add_one_modEq {p : Nat} (hp : p.Prime) (a m : Nat) : a ^ ((p - 1) * m + 1) ≡ a [MOD p] := by
  have : Fact p.Prime := ⟨hp⟩
  rw [← ZMod.natCast_eq_natCast_iff, Nat.cast_pow, pow_succ, pow_mul]
  by_cases ha : (a : ZMod p) = 0
  · rw [ha, mul_zero]
  · rw [ZMod.pow_card_sub_one_eq_one ha, one_pow, one_mul]

theorem rsa_round_trip {p q e d a : Nat} (hp : p.Prime) (hq : q.Prime) (hpq : p ≠ q)
    (hde : d * e % ((p - 1) * (q - 1)) = 1) (ha : a < p * q) : (a ^ e % (p * q)) ^ d % (p * q) = a := by
  obtain ⟨m, hm⟩ : ∃ m, e * d = (p - 1) * (q - 1) * m + 1 := by
    refine ⟨d * e / ((p - 1) * (q - 1)), ?_⟩
    rw [Nat.mul_comm e]
    exact (Nat.div_add_mod _ _).symm.trans (congrArg _ hde)
  have hmodp : a ^ (e * d) ≡ a [MOD p] := by
    rw [hm, Nat.mul_assoc]
    exact pow_mul_sub_one_add_one_modEq hp a _
  have hmodq : a ^ (e * d) ≡ a [MOD q] := by
    rw [hm, Nat.mul_comm (p - 1), Nat.mul_assoc]
    exact pow_mul_sub_one_add_one_modEq hq a _
  have hmod : a ^ (e * d) ≡ a [MOD p * q] :=
    (Nat.modEq_and_modEq_iff_modEq_mul ((Nat.coprime_primes hp hq).2 hpq)).1 ⟨hmodp, hmodq⟩
  rw [← Nat.pow_mod, ← pow_mul, hmod, Nat.mod_eq_of_lt ha]

/-- The engine between the two `MODEXP` of a round trip: `MOVRA` has moved the ciphertext to `A`, and the host has loaded
`d` in `E` (40_arith_commands.md R135). -/
def State.readyToDecrypt (t : State) (d : Nat) : State := (t.moved .movra).finish.setVal .E d

section ReadyToDecrypt

variable (t : State) (d : Nat)

theorem State.readyToDecrypt_k : (t.readyToDecrypt d).k = t.k := rfl
theorem State.readyToDecrypt_bank_N : (t.readyToDecrypt d).bank .N = t.bank .N := rfl
theorem State.readyToDecrypt_val_N : (t.readyToDecrypt d).val .N = t.val .N := rfl
theorem State.readyToDecrypt_val_A : (t.readyToDecrypt d).val .A = t.val .R := rfl
theorem State.readyToDecrypt_val_E {d : Nat} (h : d < 2 ^ t.nbits) : (t.readyToDecrypt d).val .E = d := valueOf_wordsOf h

end ReadyToDecrypt

/-- `MODEXP` gives the power, and keeps the modulus and the width for a second `MODEXP`. -/
theorem exec_modexp_result {s : State} (hlen : (s.bank .N).length = s.k) (hE : s.val .E < 2 ^ s.nbits)
    (hN : s.val .N ≠ 0) :
    ∃ t, exec .modexp s = .next t ∧ t.val .R = s.val .A ^ s.val .E % s.val .N ∧ t.bank .N = s.bank .N ∧ t.k = s.k := by
  obtain ⟨r, -, hval, hexec⟩ := exec_arithmetic_writes_result (i := .modexp) hlen rfl hN
  exact ⟨_, hexec, hval.trans (State.commandResult_modexp hE), rfl, rfl⟩

end Sys2Proof.Machine

namespace Sys2Proof.Proofs

open Sys2Proof.Machine

/-- Settles O23: the second `MODEXP` raises the result of the first to the power `d`, modulo the same `val(N)`. -/
theorem rsaRoundTripOnTheEngine : Obligations.RsaRoundTripOnTheEngine := by
  intro s p q d hinv hp hq hpq hN hde hd hA
  have hlen := hinv.bankLength .N
  have hne : s.val .N ≠ 0 := hN ▸ (Nat.mul_pos hp.pos hq.pos).ne'
  obtain ⟨t, ht, hR, htN, htk⟩ := exec_modexp_result hlen (State.val_lt_two_pow_nbits (hinv.bankLength .E)) hne
  have hdt : d < 2 ^ t.nbits := by rwa [State.nbits, htk]
  have hNval : t.val .N = s.val .N := congrArg valueOf htN
  obtain ⟨v, hv, hvR, -, -⟩ := exec_modexp_result (s := t.readyToDecrypt d)
    (by rw [t.readyToDecrypt_bank_N, t.readyToDecrypt_k, htN, htk, hlen])
    (by rwa [t.readyToDecrypt_val_E hdt]) (by rwa [t.readyToDecrypt_val_N, hNval])
  refine ⟨t, _, v, ht, exec_of_not_isArithmetic rfl t, hv, ?_⟩
  rw [hvR, t.readyToDecrypt_val_A, t.readyToDecrypt_val_E hdt, t.readyToDecrypt_val_N, hNval, hR, hN]
  exact rsa_round_trip hp hq hpq hde (hN ▸ hA)

end Sys2Proof.Proofs

/-! The move and control commands as equations of the whole next state, and a command from its `CMD` write to its
completion (41_move_control_commands.md R140 to R147, 10_state.md R48, R49). -/

namespace Sys2Proof.Machine

theorem wordsOf_zero (k : Nat) : wordsOf k 0 = List.replicate k 0#32 := by
  induction k with
  | zero => rfl
  | succ k ih => rw [wordsOf, Nat.zero_div, ih, List.replicate_succ]

theorem State.clearBanks_eq (s : State) :
    s.clearBanks = { s with
      N := List.replicate s.k 0#32, A := List.replicate s.k 0#32, B := List.replicate s.k 0#32
      E := List.replicate s.k 0#32, R := List.replicate s.k 0#32 } := by
  rw [← wordsOf_zero]
  rfl

/-- An idle engine given a command and then its turn executes that command, from the state the acceptance left. -/
theorem runsTo_command {s t : State} {i : Instr} (hidle : s.status.busy = false)
    (h : exec i ((s.accept (encode i)).respond .ok) = .next t) :
    runsTo 2 (s.withEvents [commandEvent i, .completion]) t := by
  have haccept : step (s.withEvents [commandEvent i, .completion]) =
      .next (((s.accept (encode i)).respond .ok).withEvents [.completion]) :=
    step_accept rfl hidle
  have hcomplete : step (((s.accept (encode i)).respond .ok).withEvents [.completion]) = .next t :=
    (step_command (.inr ⟨_, rfl⟩) rfl rfl).trans h
  exact runsTo_succ haccept (runsTo_succ hcomplete (runsTo_zero t))

end Sys2Proof.Machine

namespace Sys2Proof.Proofs

open Sys2Proof.Machine

/-- Settles O18: the words of 0 are words 0, and `CLR` does nothing else before it finishes. -/
theorem clrEffect : Obligations.ClrEffect := by
  refine ⟨decode_encode .clr, fun s => ?_⟩
  rw [exec_of_not_isArithmetic rfl, State.moved, State.clearBanks_eq]
  rfl

/-- Settles O16: `NOP` only finishes, so after a `CMD` write all other flags are as the acceptance left them. -/
theorem nopEffect : Obligations.NopEffect := by
  have hexec (s : State) : exec .nop s = .next s.finish := exec_of_not_isArithmetic rfl s
  refine ⟨decode_encode .nop, fun s => ⟨hexec s, fun t ht => ?_, fun hidle =>
    runsTo_command (i := .nop) hidle (hexec _)⟩⟩
  cases (hexec s).symm.trans ht
  exact Bool.true_and s.ie

/-- Settles O17: the register moved to gets the words of `R`, and then the command finishes. -/
theorem moveEffects : Obligations.MoveEffects :=
  ⟨decode_encode .movra, decode_encode .movrb,
    fun s => ⟨exec_of_not_isArithmetic rfl s, exec_of_not_isArithmetic rfl s⟩⟩

end Sys2Proof.Proofs

/-! The host's conversions between integers and big-endian bytes (48_host_rsa_flows.md R160 to R163). -/

namespace Sys2Proof.Machine

theorem bitLength_le_iff {m k : Nat} : bitLength m ≤ k ↔ m < 2 ^ k := by
  rcases Nat.eq_zero_or_pos m with rfl | hm
  · exact ⟨fun _ => Nat.two_pow_pos k, fun _ => Nat.zero_le k⟩
  · rw [bitLength_of_pos hm, Nat.succ_le_iff, Nat.log2_lt (Nat.ne_of_gt hm)]

/-- `byteLength m` is the least number of bytes that hold `m`, as R162 defines it. -/
theorem byteLength_le_iff {m len : Nat} : byteLength m ≤ len ↔ m < 256 ^ len := by
  have hbits : byteLength m ≤ len ↔ bitLength m ≤ 8 * len := by
    rw [byteLength]
    omega
  have hpow : 2 ^ (8 * len) = 256 ^ len := pow_mul 2 8 len
  rw [hbits, bitLength_le_iff, hpow]

@[simp] theorem length_intToBytes (m : Nat) : (intToBytes m).length = byteLength m := by
  rw [intToBytes, List.length_map, List.length_range]

/-- The first byte written for `len + 1` bytes has weight `256 ^ len`; the others are the bytes written for `len`. -/
theorem bytesToInt_map_range (len m : Nat) :
    bytesToInt ((List.range len).map fun j => BitVec.ofNat 8 (m / 256 ^ (len - 1 - j))) = m % 256 ^ len := by
  induction len with
  | zero => exact (Nat.mod_one m).symm
  | succ len ih =>
    have htail : (List.range len).map ((fun j => BitVec.ofNat 8 (m / 256 ^ (len + 1 - 1 - j))) ∘ Nat.succ) =
        (List.range len).map fun j => BitVec.ofNat 8 (m / 256 ^ (len - 1 - j)) :=
      List.map_congr_left fun j _ => by rw [Function.comp_apply, Nat.add_sub_cancel, Nat.sub_sub, Nat.one_add]
    rw [List.range_succ_eq_map, List.map_cons, List.map_map, htail, bytesToInt, ih, List.length_map, List.length_range,
      BitVec.toNat_ofNat, Nat.sub_zero, Nat.add_sub_cancel, Nat.mod_pow_succ (b := 256), Nat.mul_comm, Nat.add_comm]

theorem bytesToInt_intToBytes (m : Nat) : bytesToInt (intToBytes m) = m := by
  rw [intToBytes, bytesToInt_map_range, Nat.mod_eq_of_lt (byteLength_le_iff.1 le_rfl)]

/-- Byte strings of the same length with the same integer are equal. -/
theorem bytesToInt_inj {bs cs : List Byte} (hlen : bs.length = cs.length) (h : bytesToInt bs = bytesToInt cs) :
    bs = cs := by
  refine List.reverse_injective (List.ext_getElem (by simpa using hlen) fun j hj hj' => BitVec.eq_of_toNat_eq ?_)
  rw [← List.getD_eq_getElem _ 0#8 hj, ← List.getD_eq_getElem _ 0#8 hj', ← bytesToInt_div_pow_mod,
    ← bytesToInt_div_pow_mod, h]

theorem bytesToInt_zero_cons (bs : List Byte) : bytesToInt (0#8 :: bs) = bytesToInt bs := by
  rw [bytesToInt, BitVec.toNat_zero, Nat.zero_mul, Nat.zero_add]

/-- A first byte other than 0 alone makes the integer too large for fewer bytes. -/
theorem byteLength_bytesToInt_cons {b : Byte} (hb : b ≠ 0#8) (bs : List Byte) :
    byteLength (bytesToInt (b :: bs)) = (b :: bs).length := by
  have hpos : 1 ≤ b.toNat := Nat.pos_of_ne_zero fun h => hb (BitVec.eq_of_toNat_eq h)
  have hge : 256 ^ bs.length ≤ bytesToInt (b :: bs) := by
    rw [bytesToInt]
    exact (Nat.le_mul_of_pos_left _ hpos).trans (Nat.le_add_right _ _)
  have hle : byteLength (bytesToInt (b :: bs)) ≤ (b :: bs).length := byteLength_le_iff.2 (bytesToInt_lt _)
  have hgt : ¬ byteLength (bytesToInt (b :: bs)) ≤ bs.length := fun h => (byteLength_le_iff.1 h).not_ge hge
  rw [List.length_cons] at hle ⊢
  omega

theorem intToBytes_bytesToInt (bs : List Byte) : intToBytes (bytesToInt bs) = bs.dropWhile (· == 0#8) := by
  induction bs with
  | nil => rfl
  | cons b bs ih =>
    by_cases hb : b = 0#8
    · rw [hb, bytesToInt_zero_cons, ih, List.dropWhile_cons_of_pos (by decide)]
    · rw [List.dropWhile_cons_of_neg (by simpa using hb)]
      refine bytesToInt_inj ?_ (bytesToInt_intToBytes _)
      rw [length_intToBytes, byteLength_bytesToInt_cons hb]

end Sys2Proof.Machine

namespace Sys2Proof.Proofs

open Sys2Proof.Machine

/-- Settles O56: an integer's bytes are its digits in base 256; a byte string with no leading 0 byte is determined by its
integer. -/
theorem byteConversionsAreInverse : Obligations.ByteConversionsAreInverse :=
  ⟨bytesToInt_intToBytes, intToBytes_bytesToInt⟩

end Sys2Proof.Proofs

/-! The host's conversions between integers and decimal strings (48_host_rsa_flows.md R164, R165). -/

namespace Sys2Proof.Machine

theorem digitsValue_cons (base acc : Nat) (c : Char) (cs : List Char) :
    digitsValue base acc (c :: cs) = (digitValue base c).bind fun d => digitsValue base (acc * base + d) cs := by
  rw [digitsValue]
  cases digitValue base c <;> rfl

theorem digitsValue_append (base acc : Nat) (cs ds : List Char) :
    digitsValue base acc (cs ++ ds) = (digitsValue base acc cs).bind fun v => digitsValue base v ds := by
  induction cs generalizing acc with
  | nil => rfl
  | cons c cs ih =>
    rw [List.cons_append, digitsValue_cons, digitsValue_cons, Option.bind_assoc]
    exact congrArg _ (funext fun d => ih _)

theorem isSome_digitsValue_iff {base acc : Nat} {cs : List Char} :
    (digitsValue base acc cs).isSome ↔ ∀ c ∈ cs, (digitValue base c).isSome := by
  induction cs generalizing acc with
  | nil => simp [digitsValue]
  | cons c cs ih =>
    rw [digitsValue_cons, List.forall_mem_cons]
    cases hc : digitValue base c with
    | none => simp
    | some d => simp [ih]

theorem digitValue_ten_digitChar {d : Nat} (hd : d < 10) : digitValue 10 (digitChar d) = some d := by
  revert d
  decide

/-- In base 10 the letters `A` to `F` have values too large for a digit. -/
theorem isSome_digitValue_ten_iff {c : Char} : (digitValue 10 c).isSome ↔ '0' ≤ c ∧ c ≤ '9' := by
  unfold digitValue
  by_cases hc : '0' ≤ c ∧ c ≤ '9'
  · have hle : c.toNat ≤ '9'.toNat := hc.2
    have hlt : c.toNat - '0'.toNat < 10 := Nat.sub_lt_right_of_lt_add hc.1 (Nat.lt_succ_of_le hle)
    rw [if_pos hc, if_pos hlt]
    exact iff_of_true rfl hc
  · rw [if_neg hc, if_neg (by split_ifs <;> omega)]
    exact iff_of_false Bool.false_ne_true hc

/-- The parser takes a string when it is not empty and the reader of digits takes it. -/
theorem parseDecimal_eq_ok_iff {cs : List Char} {v : Nat} :
    parseDecimal cs = .ok v ↔ cs ≠ [] ∧ digitsValue 10 0 cs = some v := by
  cases cs with
  | nil => simp [parseDecimal]
  | cons c cs => cases h : digitsValue 10 0 (c :: cs) <;> simp [parseDecimal, h]

theorem digitsValue_decimalDigits (acc len c : Nat) :
    digitsValue 10 acc (decimalDigits len c) = some (acc * 10 ^ len + c % 10 ^ len) := by
  induction len generalizing c with
  | zero => simp [decimalDigits, digitsValue, Nat.mod_one]
  | succ len ih =>
    have hlast : digitValue 10 (digitChar (c % 10)) = some (c % 10) :=
      digitValue_ten_digitChar (Nat.mod_lt c (by decide))
    have hmod : c % 10 ^ (len + 1) = c % 10 + 10 * (c / 10 % 10 ^ len) := by rw [pow_succ', Nat.mod_mul]
    rw [decimalDigits, digitsValue_append, ih, Option.bind_some, digitsValue_cons, hlast, Option.bind_some, digitsValue,
      hmod]
    congr 1
    ring

theorem decimalLength_pos (fuel c : Nat) : 0 < decimalLength fuel c := by
  cases fuel with
  | zero => exact Nat.one_pos
  | succ fuel =>
    rw [decimalLength]
    split <;> omega

theorem decimalDigits_ne_nil {len : Nat} (h : 0 < len) (c : Nat) : decimalDigits len c ≠ [] := by
  cases len with
  | zero => cases h
  | succ len => simp [decimalDigits]

/-- A bit of fuel for each bit of the integer is enough: each digit takes more than one bit. -/
theorem lt_ten_pow_decimalLength {fuel c : Nat} (h : c < 2 ^ fuel) : c < 10 ^ decimalLength fuel c := by
  induction fuel generalizing c with
  | zero => exact h.trans (Nat.one_lt_pow (decimalLength_pos 0 c).ne' (by decide))
  | succ fuel ih =>
    rw [decimalLength]
    split
    · assumption
    · have hdiv : c / 10 < 10 ^ decimalLength fuel (c / 10) := ih (by omega)
      rw [pow_succ]
      omega

theorem digitChar_eq_zero_iff {d : Nat} (hd : d < 10) : digitChar d = '0' ↔ d = 0 := by
  revert d
  decide

theorem eq_zero_of_head?_decimalDigits {fuel c : Nat} (h : c < 2 ^ fuel)
    (hhead : (decimalDigits (decimalLength fuel c) c).head? = some '0') : c = 0 := by
  induction fuel generalizing c with
  | zero => omega
  | succ fuel ih =>
    rw [decimalLength] at hhead
    split at hhead
    next hc =>
      have hdigit : digitChar (c % 10) = '0' := Option.some.inj hhead
      rwa [Nat.mod_eq_of_lt hc, digitChar_eq_zero_iff hc] at hdigit
    next hc =>
      rw [decimalDigits, List.head?_append_of_ne_nil _ (decimalDigits_ne_nil (decimalLength_pos _ _) _)] at hhead
      have hdiv : c / 10 = 0 := ih (by omega) hhead
      omega

theorem parseDecimal_renderDecimal (c : Nat) : parseDecimal (renderDecimal c) = .ok c := by
  have hlt : c < 10 ^ decimalLength (bitLength c) c := lt_ten_pow_decimalLength (bitLength_le_iff.1 le_rfl)
  refine parseDecimal_eq_ok_iff.2 ⟨decimalDigits_ne_nil (decimalLength_pos _ _) c, ?_⟩
  rw [renderDecimal, digitsValue_decimalDigits, Nat.zero_mul, Nat.zero_add, Nat.mod_eq_of_lt hlt]

end Sys2Proof.Machine

namespace Sys2Proof.Proofs

open Sys2Proof.Machine

/-- Settles O57: the digits written are all those of the integer, and the reader of digits refuses every other character. -/
theorem decimalConversionsAgree : Obligations.DecimalConversionsAgree := by
  refine ⟨fun c => ⟨parseDecimal_renderDecimal c, eq_zero_of_head?_decimalDigits (bitLength_le_iff.1 le_rfl)⟩, fun cs => ?_⟩
  simp only [parseDecimal_eq_ok_iff, exists_and_left, ← Option.isSome_iff_exists, isSome_digitsValue_iff,
    isSome_digitValue_ten_iff]

end Sys2Proof.Proofs

/-! The key generator's exponent test on the engine (48_host_rsa_flows.md R173, R174). -/

namespace Sys2Proof.Proofs

open Sys2Proof.Machine

/-- Settles O24: `MODRED` writes `Z` of `phi mod e`, and the legacy check asks whether that remainder is 0. -/
theorem exponentCheckByModred : Obligations.ExponentCheckByModred := by
  intro s hN
  refine ⟨_, exec_arithmetic_of_ne (i := .modred) rfl hN, ?_⟩
  have hz : ((s.writeResult (s.commandResult .modred) (s.commandGe .modred)).finish).status.z =
      zOf (s.val .A % s.val .N) := rfl
  rw [hz, zOf, exponentAccepted, decide_eq_false_iff_not, decide_eq_true_iff]

end Sys2Proof.Proofs

/-! How a completion step ends, in error or not, and its cause (60_exceptions.md R200 to R211); the interrupt (R206). -/

namespace Sys2Proof.Machine

theorem legalWord_iff_lt {w : Word} : legalWord w ↔ w.toNat < 8 := by
  constructor
  · rintro ⟨i, rfl⟩
    cases i <;> decide
  · intro h
    have hmap : ∀ n < 8, ∃ i ∈ allCommands, BitVec.ofNat 32 n = encode i := by decide
    obtain ⟨i, -, hi⟩ := hmap w.toNat h
    exact ⟨i, by simpa using hi⟩

/-- A word is outside the map by its bits 31:8 or by its bits 7:0 (60_exceptions.md R200). -/
theorem not_legalWord_iff {w : Word} :
    ¬ legalWord w ↔ (formatOf w).zero ≠ 0#24 ∨ 0x08 ≤ (formatOf w).opcode.toNat := by
  rw [legalWord_iff_lt, Ne, formatOf_zero_eq_iff, toNat_formatOf_opcode]
  omega

theorem encode_injective {i j : Instr} (h : encode i = encode j) : i = j :=
  Except.ok.inj ((decode_encode i).symm.trans (decode_eq_ok_iff.2 h))

/-- The cause of `MOD_ZERO` (60_exceptions.md R200). -/
def State.modulusFault (s : State) (i : Instr) : Prop := isArithmetic i = true ∧ s.val .N = 0

theorem modulusFault_iff {s : State} {i : Instr} (hi : s.cmdreg = encode i) :
    (∃ j, isArithmetic j = true ∧ s.cmdreg = encode j) ∧ s.val .N = 0 ↔ s.modulusFault i := by
  refine and_congr_left fun _ => ⟨?_, fun harith => ⟨i, harith, hi⟩⟩
  rintro ⟨j, hj, hcmd⟩
  rwa [encode_injective (hi.symm.trans hcmd)]

/-- A command with no modulus fault leaves `ERR` and `ECODE` as they are. -/
theorem exec_keeps_error {s : State} {i : Instr} (h : ¬ s.modulusFault i) :
    ∃ t, exec i s = .next t ∧ t.status.err = s.status.err ∧ t.status.ecode = s.status.ecode := by
  obtain ⟨hi, hN, -⟩ | ⟨-, -, ht⟩ | ⟨-, ht⟩ := exec_cases i s
  · exact absurd ⟨hi, hN⟩ h
  · exact ⟨_, ht, rfl, rfl⟩
  · exact ⟨_, ht, by simp [Status.finished]⟩

/-- The engine's turn while busy ends in `ILLEGAL_CMD`, or, the word being legal, in `MOD_ZERO`, or in no error: decoding
comes before the test of the modulus (60_exceptions.md R209). -/
theorem step_busy_cases {s : State} (hturn : s.engineTurn) (hbusy : s.status.busy = true) :
    (¬ legalWord s.cmdreg ∧ step s = .next (s.turnTaken.raiseError .illegalCmd)) ∨
      ∃ i, s.cmdreg = encode i ∧
        ((s.modulusFault i ∧ step s = .next (s.turnTaken.raiseError .modZero)) ∨
          (¬ s.modulusFault i ∧
            ∃ t, step s = .next t ∧ t.status.err = s.status.err ∧ t.status.ecode = s.status.ecode)) := by
  by_cases hlegal : legalWord s.cmdreg
  · obtain ⟨i, hi⟩ := hlegal
    refine .inr ⟨i, hi, ?_⟩
    rw [step_command hturn hbusy hi]
    by_cases hfault : s.modulusFault i
    · exact .inl ⟨hfault, exec_arithmetic_of_zero hfault.1 (by simpa using hfault.2)⟩
    · exact .inr ⟨hfault, exec_keeps_error (s := s.turnTaken) (by simpa [State.modulusFault] using hfault)⟩
  · refine .inl ⟨hlegal, ?_⟩
    obtain ⟨i, hi, -⟩ | ⟨e, -, h⟩ := executeCommand_cases s.turnTaken
    · exact absurd ⟨i, decode_eq_ok_iff.1 hi⟩ hlegal
    · exact (step_busy hturn hbusy).trans h

/-- A completion from `ECODE = 0` reports each cause exactly when its condition holds (60_exceptions.md R200). -/
theorem ecode_of_completion_step {s t : State} (hturn : s.engineTurn) (hbusy : s.status.busy = true)
    (hnone : s.status.ecode = .none) (h : step s = .next t) :
    (t.status.ecode = .illegalCmd ↔ ¬ legalWord s.cmdreg) ∧
      (t.status.ecode = .modZero ↔ (∃ i, isArithmetic i = true ∧ s.cmdreg = encode i) ∧ s.val .N = 0) := by
  obtain ⟨hillegal, hs⟩ | ⟨i, hi, hend⟩ := step_busy_cases hturn hbusy
  · cases hs.symm.trans h
    refine ⟨iff_of_true rfl hillegal, iff_of_false nofun ?_⟩
    rintro ⟨⟨i, -, hi⟩, -⟩
    exact hillegal ⟨i, hi⟩
  · rw [modulusFault_iff hi]
    have hlegal : ¬ ¬ legalWord s.cmdreg := not_not.2 ⟨i, hi⟩
    obtain ⟨hfault, hs⟩ | ⟨hfault, u, hs, -, hkept⟩ := hend <;> cases hs.symm.trans h
    · exact ⟨iff_of_false nofun hlegal, iff_of_true rfl hfault⟩
    · rw [hkept, hnone]
      exact ⟨iff_of_false nofun hlegal, iff_of_false nofun hfault⟩

theorem step_write_ctrl {s : State} {v : Word} (h : s.schedule.head? = some (.write ctrlOffset 4 v)) :
    step s = .next ((s.turnTaken.writeCtrl v).respond .ok) :=
  step_write h (locate_ctrlOffset s.k)

theorem step_read {s : State} {off : Offset} {size : Nat} (h : s.schedule.head? = some (.read off size)) :
    step s = .next (s.turnTaken.respond (busRead s.turnTaken off size)) :=
  step_of_head h

end Sys2Proof.Machine

namespace Sys2Proof.Proofs

open Sys2Proof.Machine

/-- Settles O29: a word outside the map enters the error `ILLEGAL_CMD`, which changes four fields of `STATUS`. -/
theorem illegalWordEndsInError : Obligations.IllegalWordEndsInError := by
  intro s hturn hbusy hillegal
  obtain ⟨-, h⟩ | ⟨i, hi, -⟩ := step_busy_cases hturn hbusy
  · exact h
  · exact absurd ⟨i, hi⟩ hillegal

/-- Settles O30: the modulus is tested by the arithmetic commands, before any write, and by no other. -/
theorem zeroModulusEndsInError : Obligations.ZeroModulusEndsInError :=
  fun _ _ hN => ⟨fun hi => exec_arithmetic_of_zero hi hN,
    fun hi => exec_keeps_error fun hfault => Bool.false_ne_true (hi.symm.trans hfault.1)⟩

/-- Settles O32: the two error entries are equations of the whole next state, and any other end leaves `ERR` 0. -/
theorem errorEntryChangesFourFields : Obligations.ErrorEntryChangesFourFields := by
  intro s t hinv hturn hbusy hstep herr
  obtain ⟨-, h⟩ | ⟨i, -, ⟨-, h⟩ | ⟨-, t', h, herr', -⟩⟩ := step_busy_cases hturn hbusy <;> cases h.symm.trans hstep
  · rfl
  · rfl
  · obtain ⟨-, hclear, -⟩ := hinv.busyClear hbusy
    simp [herr', hclear] at herr

/-- Settles O31: the codes are by their causes; the rest is the invariant of the next state and the frame of an error
entry. -/
theorem errorCausesAreExact : Obligations.ErrorCausesAreExact := by
  intro s hinv hturn hbusy
  obtain ⟨t, h⟩ := exists_step s
  obtain ⟨hillegal, hmodZero⟩ := ecode_of_completion_step hturn hbusy (hinv.ecode_of_busy hbusy) h
  have hframe := completionFrame_of_executeCommand ((step_busy hturn hbusy).symm.trans h)
  refine ⟨t, h, hillegal, hmodZero, (everyStepKeepsTheInvariant s t hinv h).errIffCode, hframe.cmdreg, fun herr => ?_,
    not_legalWord_iff, rfl, rfl, rfl⟩
  rw [errorEntryChangesFourFields s t hinv hturn hbusy h herr]
  rfl

/-- Settles O47: what each event leaves in `DONE` and `IE`, of which `irq` is the conjunction. -/
theorem interruptFollowsDoneAndEnable : Obligations.InterruptFollowsDoneAndEnable := by
  intro s t h
  refine ⟨fun hturn hbusy => ?_, fun v hhead => ?_, fun v hhead hbit => ?_, fun v hhead hidle => ?_, fun hhead => ?_,
    fun off size hhead => ?_, fun hstatus hie => ?_⟩
  · have hframe := completionFrame_of_executeCommand ((step_busy hturn hbusy).symm.trans h)
    exact ⟨hframe.done, by simp [State.irq, hframe.done, hframe.ie]⟩
  · cases (step_write_ctrl hhead).symm.trans h
    exact ⟨rfl, rfl⟩
  · cases (step_write_status hhead).symm.trans h
    simp [State.irq, Status.writeOneToClear, hbit]
  · cases (step_accept hhead hidle).symm.trans h
    rfl
  · cases (step_reset hhead).symm.trans h
    exact ⟨rfl, rfl⟩
  · cases (step_read hhead).symm.trans h
    rfl
  · simp [State.irq, hstatus, hie]

end Sys2Proof.Proofs

/-! The busy hazard, the fairness of the engine's turn and the reset event (70_reset_and_hazards.md R231, R232, R240,
R247). -/

namespace Sys2Proof.Machine

theorem readLocation_respond (s : State) (r : Response) (l : Location) :
    readLocation (s.respond r) l = readLocation s l := by
  cases l with
  | id | param | cmd | status | ctrl => rfl
  | operand x i => simp [readLocation]

theorem busRead_respond (s : State) (r : Response) (off : Offset) (size : Nat) :
    busRead (s.respond r) off size = busRead s off size := by
  simp only [busRead, State.respond_k, readLocation_respond]

theorem length_resetBank (s : State) (x : Bank) : (resetBank s x).length = s.k := by
  simp [resetBank]

/-- The engine's turn leaves it idle: a completion ends in `BUSY` 0, and the turn of an idle engine changes nothing. -/
theorem idle_of_engineTurn_step {s t : State} (hturn : s.engineTurn) (h : step s = .next t) :
    t.status.busy = false := by
  cases hbusy : s.status.busy with
  | true => exact (completionFrame_of_executeCommand ((step_busy hturn hbusy).symm.trans h)).busy
  | false =>
    cases (step_idle hturn hbusy).symm.trans h
    exact hbusy

theorem takeEvent_write_cmd_of_busy {s : State} (v : Word) (hbusy : s.status.busy = true) :
    takeEvent s (.write cmdOffset 4 v) = .next (s.refuseWrite.respond .ok) := by
  rw [takeEvent_write v (locate_cmdOffset s.k), writeLocation_of_refusesWrite v (.inr (.inr (.inl ⟨rfl, hbusy⟩)))]

theorem State.moved_refuseWrite_respond (s : State) (r : Response) (i : Instr) :
    (s.refuseWrite.respond r).moved i = (s.moved i).refuseWrite.respond r := by
  cases i <;> rfl

/-- No command reads or writes `ACCERR` or the answers, so a refused write before it or after it is the same. -/
theorem exec_refuseWrite_respond {s t : State} {i : Instr} (r : Response) (h : exec i s = .next t) :
    exec i (s.refuseWrite.respond r) = .next (t.refuseWrite.respond r) := by
  have hN : (s.refuseWrite.respond r).val .N = s.val .N := by simp
  obtain ⟨hi, hzero, hs⟩ | ⟨hi, hne, hs⟩ | ⟨hi, hs⟩ := exec_cases i s <;> cases hs.symm.trans h
  · exact exec_arithmetic_of_zero hi (hN.trans hzero)
  · exact exec_arithmetic_of_ne hi (hN ▸ hne)
  · rw [exec_of_not_isArithmetic hi, State.moved_refuseWrite_respond]
    rfl

theorem executeCommand_refuseWrite_respond {s t : State} (r : Response) (h : executeCommand s = .next t) :
    executeCommand (s.refuseWrite.respond r) = .next (t.refuseWrite.respond r) := by
  obtain ⟨i, hi, hs⟩ | ⟨e, he, hs⟩ := executeCommand_cases s
  · rw [executeCommand_of_decode (s := s.refuseWrite.respond r) hi]
    exact exec_refuseWrite_respond r (hs.symm.trans h)
  · cases hs.symm.trans h
    simp only [executeCommand, State.respond_cmdreg, State.refuseWrite_cmdreg, he]
    rfl

end Sys2Proof.Machine

namespace Sys2Proof.Proofs

open Sys2Proof.Machine

/-- Settles O52: by induction on the events still to come, after which the engine has the turn. -/
theorem engineBecomesIdle : Obligations.EngineBecomesIdle := by
  intro s
  induction hs : s.schedule generalizing s with
  | nil =>
    obtain ⟨t, ht⟩ := exists_step s
    exact ⟨t, runsTo_succ ht (runsTo_zero t), idle_of_engineTurn_step (.inl hs) ht, by rw [step_schedule ht, hs]; rfl⟩
  | cons ev evs ih =>
    obtain ⟨t, ht⟩ := exists_step s
    obtain ⟨u, hrun, hu⟩ := ih t (by rw [step_schedule ht, hs]; rfl)
    exact ⟨u, runsTo_succ ht hrun, hu⟩

/-- Settles O53: the write is refused, and a refused write before a completion leaves what it leaves after it. -/
theorem secondCommandIsLost : Obligations.SecondCommandIsLost := by
  intro s t v _ hbusy h
  have hwrite : step (s.withEvents [.write cmdOffset 4 v, .completion]) =
      .next ((s.refuseWrite.respond .ok).withEvents [.completion]) :=
    takeEvent_write_cmd_of_busy (s := s.withEvents [.completion]) v hbusy
  have hcomplete : step ((s.refuseWrite.respond .ok).withEvents [.completion]) = .next (t.refuseWrite.respond .ok) :=
    (step_busy (s := (s.refuseWrite.respond .ok).withEvents [.completion]) (.inr ⟨_, rfl⟩) hbusy).trans
      (executeCommand_refuseWrite_respond .ok h)
  rw [← (completionFrame_of_executeCommand h).responses]
  exact runsTo_succ hwrite (runsTo_succ hcomplete (runsTo_zero _))

/-- Settles O49: only a completion and a reset end in `BUSY` 0 from a busy state; the rest is the state a reset leaves. -/
theorem resetEventAbandonsAndClears : Obligations.ResetEventAbandonsAndClears := by
  refine ⟨fun s t h hbusy hidle => ?_, fun s rest hs => ?_⟩
  · cases stepEffect_of_step h with
    | completion turn | idleTurn turn => exact .inr turn
    | reset head => exact .inl head
    | acceptance _ _ idle | operandWrite _ _ _ _ _ _ idle => simp [hbusy] at idle
    | answer | refusal | statusWrite | ctrlWrite => cases hbusy.symm.trans hidle
  · refine ⟨applyReset s.turnTaken, step_reset (by rw [hs]; rfl), rfl, rfl, rfl, rfl, rfl, fun x => ?_, ?_,
      fun hturn => step_idle hturn rfl, fun off size u hread => ?_⟩
    · rw [applyReset_bank, length_resetBank, State.turnTaken_k]
    · rw [applyReset_schedule, State.turnTaken, hs, List.tail_cons]
    · cases (step_withEvents _ _).symm.trans hread
      exact busRead_respond _ _ off size

end Sys2Proof.Proofs
